-- ==== Sys2Proof/Word.lean ====
section
/-! DEFINITION. The widths the spec names (00_scope R8, R9; 30_encoding R91): every value is an unsigned bit string. -/

namespace Sys2Proof

/-- An 8-bit register, timer or RAM byte (10_state R20). -/
abbrev Byte := BitVec 8

/-- A 16-bit opcode, `pc`, `I` or return address (10_state R20, 30_encoding R90). -/
abbrev Word := BitVec 16

/-- A 4-bit field: a register index, a key index or a sprite height (30_encoding R91). -/
abbrev Nibble := BitVec 4

/-- A 12-bit address operand `NNN` (30_encoding R91). -/
abbrev Addr := BitVec 12

end Sys2Proof
end

