-- ==== Sys2Proof/Syntax.lean ====
section
/-! DEFINITION. The instruction set: one constructor per row of spec/opcode_table.json (30_encoding R94). -/

namespace Sys2Proof

/-- The 34 instructions, operands as the fields of 30_encoding R91: `x`, `y` register indices, `nn` an 8-bit
immediate, `n` a sprite height, `nnn` a 12-bit address. Every value of every field is legal (R93). -/
inductive Instr where
  /-- 00E0 `CLS` (44_display R210) -/
  | cls
  /-- 00EE `RET` (41_control_flow R140) -/
  | ret
  /-- 1NNN `JP NNN` (R141) -/
  | jp (nnn : Addr)
  /-- 2NNN `CALL NNN` (R142) -/
  | call (nnn : Addr)
  /-- 3XNN `SE Vx, NN` (R143) -/
  | seImm (x : Nibble) (nn : Byte)
  /-- 4XNN `SNE Vx, NN` (R144) -/
  | sneImm (x : Nibble) (nn : Byte)
  /-- 5XY0 `SE Vx, Vy` (R145) -/
  | seReg (x y : Nibble)
  /-- 6XNN `LD Vx, NN` (42_load_alu R160) -/
  | ldImm (x : Nibble) (nn : Byte)
  /-- 7XNN `ADD Vx, NN` (R161) -/
  | addImm (x : Nibble) (nn : Byte)
  /-- 8XY0 `LD Vx, Vy` (R162) -/
  | ldReg (x y : Nibble)
  /-- 8XY1 `OR Vx, Vy` (R163) -/
  | orReg (x y : Nibble)
  /-- 8XY2 `AND Vx, Vy` (R164) -/
  | andReg (x y : Nibble)
  /-- 8XY3 `XOR Vx, Vy` (R165) -/
  | xorReg (x y : Nibble)
  /-- 8XY4 `ADD Vx, Vy` (R166) -/
  | addReg (x y : Nibble)
  /-- 8XY5 `SUB Vx, Vy` (R167) -/
  | subReg (x y : Nibble)
  /-- 8XY6 `SHR Vx, Vy` (R168) -/
  | shrReg (x y : Nibble)
  /-- 8XY7 `SUBN Vx, Vy` (R169) -/
  | subnReg (x y : Nibble)
  /-- 8XYE `SHL Vx, Vy` (R170) -/
  | shlReg (x y : Nibble)
  /-- 9XY0 `SNE Vx, Vy` (41_control_flow R146) -/
  | sneReg (x y : Nibble)
  /-- ANNN `LD I, NNN` (43_index_memory R190) -/
  | ldI (nnn : Addr)
  /-- BNNN `JP V0, NNN` (41_control_flow R147) -/
  | jpV0 (nnn : Addr)
  /-- CXNN `RND Vx, NN` (42_load_alu R171) -/
  | rnd (x : Nibble) (nn : Byte)
  /-- DXYN `DRW Vx, Vy, N` (44_display R211) -/
  | drw (x y n : Nibble)
  /-- EX9E `SKP Vx` (45_keypad_timers R230) -/
  | skp (x : Nibble)
  /-- EXA1 `SKNP Vx` (R231) -/
  | sknp (x : Nibble)
  /-- FX07 `LD Vx, DT` (R233) -/
  | ldVxDT (x : Nibble)
  /-- FX0A `LD Vx, K` (R232) -/
  | ldVxK (x : Nibble)
  /-- FX15 `LD DT, Vx` (R234) -/
  | ldDTVx (x : Nibble)
  /-- FX18 `LD ST, Vx` (R235) -/
  | ldSTVx (x : Nibble)
  /-- FX1E `ADD I, Vx` (43_index_memory R191) -/
  | addI (x : Nibble)
  /-- FX29 `LD F, Vx` (R192) -/
  | ldF (x : Nibble)
  /-- FX33 `LD B, Vx` (R193) -/
  | ldB (x : Nibble)
  /-- FX55 `LD [I], Vx` (R194) -/
  | ldMemVx (x : Nibble)
  /-- FX65 `LD Vx, [I]` (R195) -/
  | ldVxMem (x : Nibble)
  deriving DecidableEq, Repr

end Sys2Proof
end

