-- ==== Sys2Proof/Decode.lean ====
section
/-! DEFINITION. The decoder (30_encoding R96), the opcode table (R94) and the encoder, all from the spec's encodings. -/

namespace Sys2Proof

/-- `OP`, bits 15:12 (30_encoding R91). -/
def fieldOP (op : Word) : Nibble := op.extractLsb' 12 4

/-- `X`, bits 11:8 (R91). -/
def fieldX (op : Word) : Nibble := op.extractLsb' 8 4

/-- `Y`, bits 7:4 (R91). -/
def fieldY (op : Word) : Nibble := op.extractLsb' 4 4

/-- `N`, bits 3:0 (R91). -/
def fieldN (op : Word) : Nibble := op.extractLsb' 0 4

/-- `NN`, bits 7:0 (R91). -/
def fieldNN (op : Word) : Byte := op.extractLsb' 0 8

/-- `NNN`, bits 11:0 (R91). -/
def fieldNNN (op : Word) : Addr := op.extractLsb' 0 12

/-- What the decoder answers: one of the 34 instructions, or the opcode rejected by the name `Unimplemented` (R96). -/
inductive Decoded where
  | instr (i : Instr)
  | unimplemented (op : Word)
  deriving DecidableEq, Repr

/-- The 0 family: 00E0 and 00EE, nothing else (R96, R97). -/
def decode0 (op : Word) : Decoded :=
  if op = 0x00E0#16 then .instr .cls
  else if op = 0x00EE#16 then .instr .ret
  else .unimplemented op

/-- The 8XY_ family by its low nibble (R95, R96). -/
def decode8 (op : Word) : Decoded :=
  match (fieldN op).toNat with
  | 0x0 => .instr (.ldReg (fieldX op) (fieldY op))
  | 0x1 => .instr (.orReg (fieldX op) (fieldY op))
  | 0x2 => .instr (.andReg (fieldX op) (fieldY op))
  | 0x3 => .instr (.xorReg (fieldX op) (fieldY op))
  | 0x4 => .instr (.addReg (fieldX op) (fieldY op))
  | 0x5 => .instr (.subReg (fieldX op) (fieldY op))
  | 0x6 => .instr (.shrReg (fieldX op) (fieldY op))
  | 0x7 => .instr (.subnReg (fieldX op) (fieldY op))
  | 0xE => .instr (.shlReg (fieldX op) (fieldY op))
  | _ => .unimplemented op

/-- The EX__ family by its low byte (R96, R97). -/
def decodeE (op : Word) : Decoded :=
  match (fieldNN op).toNat with
  | 0x9E => .instr (.skp (fieldX op))
  | 0xA1 => .instr (.sknp (fieldX op))
  | _ => .unimplemented op

/-- The FX__ family by its low byte (R96, R97). -/
def decodeF (op : Word) : Decoded :=
  match (fieldNN op).toNat with
  | 0x07 => .instr (.ldVxDT (fieldX op))
  | 0x0A => .instr (.ldVxK (fieldX op))
  | 0x15 => .instr (.ldDTVx (fieldX op))
  | 0x18 => .instr (.ldSTVx (fieldX op))
  | 0x1E => .instr (.addI (fieldX op))
  | 0x29 => .instr (.ldF (fieldX op))
  | 0x33 => .instr (.ldB (fieldX op))
  | 0x55 => .instr (.ldMemVx (fieldX op))
  | 0x65 => .instr (.ldVxMem (fieldX op))
  | _ => .unimplemented op

/-- The decoder of 30_encoding R96, total on the 65536 words. -/
def decode (op : Word) : Decoded :=
  match (fieldOP op).toNat with
  | 0x0 => decode0 op
  | 0x1 => .instr (.jp (fieldNNN op))
  | 0x2 => .instr (.call (fieldNNN op))
  | 0x3 => .instr (.seImm (fieldX op) (fieldNN op))
  | 0x4 => .instr (.sneImm (fieldX op) (fieldNN op))
  | 0x5 => if fieldN op = 0#4 then .instr (.seReg (fieldX op) (fieldY op)) else .unimplemented op
  | 0x6 => .instr (.ldImm (fieldX op) (fieldNN op))
  | 0x7 => .instr (.addImm (fieldX op) (fieldNN op))
  | 0x8 => decode8 op
  | 0x9 => if fieldN op = 0#4 then .instr (.sneReg (fieldX op) (fieldY op)) else .unimplemented op
  | 0xA => .instr (.ldI (fieldNNN op))
  | 0xB => .instr (.jpV0 (fieldNNN op))
  | 0xC => .instr (.rnd (fieldX op) (fieldNN op))
  | 0xD => .instr (.drw (fieldX op) (fieldY op) (fieldN op))
  | 0xE => decodeE op
  | _ => decodeF op

/-- The opcode of the bytes at `pc` and `pc + 1`, high byte first (R90, 20_memory R66). -/
def wordOfBytes (b0 b1 : Byte) : Word := b0 ++ b1

/-- The bytes of an opcode in address order, high byte first (R90). -/
def bytesOfWord (op : Word) : List Byte := [op.extractLsb' 8 8, op.extractLsb' 0 8]

/-- The decoder on bytes: what the first two decode to and the bytes after them; nothing when there are fewer. -/
def decodeBytes : List Byte → Option (Decoded × List Byte)
  | b0 :: b1 :: rest => some (decode (wordOfBytes b0 b1), rest)
  | _ => none

/-- The bytes of a table word: its low `nbits` bits, every higher bit zero, laid out as `bytesOfWord` does. -/
def tableBytes (nbits w : Nat) : List Byte := bytesOfWord (BitVec.ofNat 16 (w % 2 ^ nbits))

/-- The instruction the decoder reads from a table word (see `tableBytes`), none where it rejects the word. -/
def decodeTableWord (nbits w : Nat) : Option Instr :=
  match decodeBytes (tableBytes nbits w) with
  | some (.instr i, _) => some i
  | _ => none

/-- The word of an instruction, from the formats of 30_encoding R92 and the matches of R94. -/
def encode : Instr → Word
  | .cls => 0x00E0#16
  | .ret => 0x00EE#16
  | .jp nnn => 0x1#4 ++ nnn
  | .call nnn => 0x2#4 ++ nnn
  | .seImm x nn => 0x3#4 ++ x ++ nn
  | .sneImm x nn => 0x4#4 ++ x ++ nn
  | .seReg x y => 0x5#4 ++ x ++ y ++ 0x0#4
  | .ldImm x nn => 0x6#4 ++ x ++ nn
  | .addImm x nn => 0x7#4 ++ x ++ nn
  | .ldReg x y => 0x8#4 ++ x ++ y ++ 0x0#4
  | .orReg x y => 0x8#4 ++ x ++ y ++ 0x1#4
  | .andReg x y => 0x8#4 ++ x ++ y ++ 0x2#4
  | .xorReg x y => 0x8#4 ++ x ++ y ++ 0x3#4
  | .addReg x y => 0x8#4 ++ x ++ y ++ 0x4#4
  | .subReg x y => 0x8#4 ++ x ++ y ++ 0x5#4
  | .shrReg x y => 0x8#4 ++ x ++ y ++ 0x6#4
  | .subnReg x y => 0x8#4 ++ x ++ y ++ 0x7#4
  | .shlReg x y => 0x8#4 ++ x ++ y ++ 0xE#4
  | .sneReg x y => 0x9#4 ++ x ++ y ++ 0x0#4
  | .ldI nnn => 0xA#4 ++ nnn
  | .jpV0 nnn => 0xB#4 ++ nnn
  | .rnd x nn => 0xC#4 ++ x ++ nn
  | .drw x y n => 0xD#4 ++ x ++ y ++ n
  | .skp x => 0xE#4 ++ x ++ 0x9E#8
  | .sknp x => 0xE#4 ++ x ++ 0xA1#8
  | .ldVxDT x => 0xF#4 ++ x ++ 0x07#8
  | .ldVxK x => 0xF#4 ++ x ++ 0x0A#8
  | .ldDTVx x => 0xF#4 ++ x ++ 0x15#8
  | .ldSTVx x => 0xF#4 ++ x ++ 0x18#8
  | .addI x => 0xF#4 ++ x ++ 0x1E#8
  | .ldF x => 0xF#4 ++ x ++ 0x29#8
  | .ldB x => 0xF#4 ++ x ++ 0x33#8
  | .ldMemVx x => 0xF#4 ++ x ++ 0x55#8
  | .ldVxMem x => 0xF#4 ++ x ++ 0x65#8

/-- A row of the opcode table (R94): an opcode is the row's when `op & mask = match`. -/
structure TableRow where
  mnemonic : String
  mask : Word
  bits : Word
  deriving DecidableEq, Repr

/-- `op & mask = match` (R94). -/
def TableRow.selects (r : TableRow) (op : Word) : Bool := decide (op &&& r.mask = r.bits)

/-- The row of each instruction (R94). -/
def tableRow : Instr → TableRow
  | .cls => ⟨"CLS", 0xFFFF#16, 0x00E0#16⟩
  | .ret => ⟨"RET", 0xFFFF#16, 0x00EE#16⟩
  | .jp _ => ⟨"JP_NNN", 0xF000#16, 0x1000#16⟩
  | .call _ => ⟨"CALL_NNN", 0xF000#16, 0x2000#16⟩
  | .seImm _ _ => ⟨"SE_Vx__NN", 0xF000#16, 0x3000#16⟩
  | .sneImm _ _ => ⟨"SNE_Vx__NN", 0xF000#16, 0x4000#16⟩
  | .seReg _ _ => ⟨"SE_Vx__Vy", 0xF00F#16, 0x5000#16⟩
  | .ldImm _ _ => ⟨"LD_Vx__NN", 0xF000#16, 0x6000#16⟩
  | .addImm _ _ => ⟨"ADD_Vx__NN", 0xF000#16, 0x7000#16⟩
  | .ldReg _ _ => ⟨"LD_Vx__Vy", 0xF00F#16, 0x8000#16⟩
  | .orReg _ _ => ⟨"OR_Vx__Vy", 0xF00F#16, 0x8001#16⟩
  | .andReg _ _ => ⟨"AND_Vx__Vy", 0xF00F#16, 0x8002#16⟩
  | .xorReg _ _ => ⟨"XOR_Vx__Vy", 0xF00F#16, 0x8003#16⟩
  | .addReg _ _ => ⟨"ADD_Vx__Vy", 0xF00F#16, 0x8004#16⟩
  | .subReg _ _ => ⟨"SUB_Vx__Vy", 0xF00F#16, 0x8005#16⟩
  | .shrReg _ _ => ⟨"SHR_Vx__Vy", 0xF00F#16, 0x8006#16⟩
  | .subnReg _ _ => ⟨"SUBN_Vx__Vy", 0xF00F#16, 0x8007#16⟩
  | .shlReg _ _ => ⟨"SHL_Vx__Vy", 0xF00F#16, 0x800E#16⟩
  | .sneReg _ _ => ⟨"SNE_Vx__Vy", 0xF00F#16, 0x9000#16⟩
  | .ldI _ => ⟨"LD_I__NNN", 0xF000#16, 0xA000#16⟩
  | .jpV0 _ => ⟨"JP_V0__NNN", 0xF000#16, 0xB000#16⟩
  | .rnd _ _ => ⟨"RND_Vx__NN", 0xF000#16, 0xC000#16⟩
  | .drw _ _ _ => ⟨"DRW_Vx__Vy__N", 0xF000#16, 0xD000#16⟩
  | .skp _ => ⟨"SKP_Vx", 0xF0FF#16, 0xE09E#16⟩
  | .sknp _ => ⟨"SKNP_Vx", 0xF0FF#16, 0xE0A1#16⟩
  | .ldVxDT _ => ⟨"LD_Vx__DT", 0xF0FF#16, 0xF007#16⟩
  | .ldVxK _ => ⟨"LD_Vx__K", 0xF0FF#16, 0xF00A#16⟩
  | .ldDTVx _ => ⟨"LD_DT__Vx", 0xF0FF#16, 0xF015#16⟩
  | .ldSTVx _ => ⟨"LD_ST__Vx", 0xF0FF#16, 0xF018#16⟩
  | .addI _ => ⟨"ADD_I__Vx", 0xF0FF#16, 0xF01E#16⟩
  | .ldF _ => ⟨"LD_F__Vx", 0xF0FF#16, 0xF029#16⟩
  | .ldB _ => ⟨"LD_B__Vx", 0xF0FF#16, 0xF033#16⟩
  | .ldMemVx _ => ⟨"LD__I___Vx", 0xF0FF#16, 0xF055#16⟩
  | .ldVxMem _ => ⟨"LD_Vx___I", 0xF0FF#16, 0xF065#16⟩

/-- The opcode table in its own order (R94). -/
def opcodeTable : List TableRow :=
  [⟨"CLS", 0xFFFF#16, 0x00E0#16⟩,
    ⟨"RET", 0xFFFF#16, 0x00EE#16⟩,
    ⟨"JP_NNN", 0xF000#16, 0x1000#16⟩,
    ⟨"CALL_NNN", 0xF000#16, 0x2000#16⟩,
    ⟨"SE_Vx__NN", 0xF000#16, 0x3000#16⟩,
    ⟨"SNE_Vx__NN", 0xF000#16, 0x4000#16⟩,
    ⟨"SE_Vx__Vy", 0xF00F#16, 0x5000#16⟩,
    ⟨"LD_Vx__NN", 0xF000#16, 0x6000#16⟩,
    ⟨"ADD_Vx__NN", 0xF000#16, 0x7000#16⟩]
  ++ [⟨"LD_Vx__Vy", 0xF00F#16, 0x8000#16⟩,
    ⟨"OR_Vx__Vy", 0xF00F#16, 0x8001#16⟩,
    ⟨"AND_Vx__Vy", 0xF00F#16, 0x8002#16⟩,
    ⟨"XOR_Vx__Vy", 0xF00F#16, 0x8003#16⟩,
    ⟨"ADD_Vx__Vy", 0xF00F#16, 0x8004#16⟩,
    ⟨"SUB_Vx__Vy", 0xF00F#16, 0x8005#16⟩,
    ⟨"SHR_Vx__Vy", 0xF00F#16, 0x8006#16⟩,
    ⟨"SUBN_Vx__Vy", 0xF00F#16, 0x8007#16⟩,
    ⟨"SHL_Vx__Vy", 0xF00F#16, 0x800E#16⟩]
  ++ [⟨"SNE_Vx__Vy", 0xF00F#16, 0x9000#16⟩,
    ⟨"LD_I__NNN", 0xF000#16, 0xA000#16⟩,
    ⟨"JP_V0__NNN", 0xF000#16, 0xB000#16⟩,
    ⟨"RND_Vx__NN", 0xF000#16, 0xC000#16⟩,
    ⟨"DRW_Vx__Vy__N", 0xF000#16, 0xD000#16⟩,
    ⟨"SKP_Vx", 0xF0FF#16, 0xE09E#16⟩,
    ⟨"SKNP_Vx", 0xF0FF#16, 0xE0A1#16⟩,
    ⟨"LD_Vx__DT", 0xF0FF#16, 0xF007#16⟩,
    ⟨"LD_Vx__K", 0xF0FF#16, 0xF00A#16⟩]
  ++ [⟨"LD_DT__Vx", 0xF0FF#16, 0xF015#16⟩,
    ⟨"LD_ST__Vx", 0xF0FF#16, 0xF018#16⟩,
    ⟨"ADD_I__Vx", 0xF0FF#16, 0xF01E#16⟩,
    ⟨"LD_F__Vx", 0xF0FF#16, 0xF029#16⟩,
    ⟨"LD_B__Vx", 0xF0FF#16, 0xF033#16⟩,
    ⟨"LD__I___Vx", 0xF0FF#16, 0xF055#16⟩,
    ⟨"LD_Vx___I", 0xF0FF#16, 0xF065#16⟩]

end Sys2Proof
end

