-- ==== Sys2Proof/Machine/Flags.lean ====
section
/-! DEFINITION. The flag computations (42_load_alu R172): the value an instruction leaves in VF, 0 or 1 (10_state R22). -/

namespace Sys2Proof.Machine

/-- A condition as the flag byte: 1 when it holds, else 0 (R22). -/
def flagByte (b : Bool) : Byte := if b then 1#8 else 0#8

/-- 8XY4: 1 iff the exact sum exceeds 255 (R166). -/
def carryFlag (a b : Byte) : Byte := flagByte (decide (255 < a.toNat + b.toNat))

/-- 8XY5 and 8XY7: 1 iff the minuend is at least the subtrahend (R167, R169). -/
def notBorrowFlag (minuend subtrahend : Byte) : Byte := flagByte (decide (subtrahend.toNat ≤ minuend.toNat))

/-- 8XY6: the bit shifted out, bit 0 (R168). -/
def shiftRightFlag (v : Byte) : Byte := flagByte (v.getLsbD 0)

/-- 8XYE: the bit shifted out, bit 7 (R170). -/
def shiftLeftFlag (v : Byte) : Byte := flagByte (v.getLsbD 7)

/-- DXYN: 1 iff some cell went from on to off (R211). -/
def collisionFlag (hit : Bool) : Byte := flagByte hit

end Sys2Proof.Machine
end

