-- ==== Sys2Proof/Config.lean ====
section
/-! DEFINITION. The configuration parameters of 00_scope R6 and 20_memory R63, and the free value of the spec. -/

namespace Sys2Proof

/-- `SHIFT_SRC` (00_scope R6, 92_eei D6): the register that 8XY6 and 8XYE shift. -/
inductive ShiftSrc where
  | y
  | x
  deriving DecidableEq, Repr

/-- `UNIMPL_POLICY` (00_scope R6, 92_eei D8): what an unimplemented opcode does. -/
inductive UnimplPolicy where
  | skip
  | halt
  deriving DecidableEq, Repr

/-- The parameters the core is constructed with (00_scope R6): fixed from power-on reset onward. -/
structure Config where
  /-- `FONT_BASE` (92_eei D5): legal when `FONT_BASE + 80 <= 0x200`. -/
  fontBase : Word
  /-- `FONT_DATA` (92_eei D31): 80 bytes, sixteen glyphs of five rows. -/
  fontData : List Byte
  /-- `SHIFT_SRC`. -/
  shiftSrc : ShiftSrc
  /-- `LOADSTORE_INC_I` (92_eei D7): whether FX55 and FX65 add X + 1 to `I`. -/
  loadStoreIncI : Bool
  /-- `UNIMPL_POLICY`. -/
  unimplPolicy : UnimplPolicy
  deriving DecidableEq, Repr

/-- The random input `rnd` (46_host_operations R260): the byte of draw number `n`.
No body: nothing can be proved of any draw, so a claim holds for every sequence of draws.
DESIGN CHOICE, safe: log entry 3. -/
opaque Config.rnd : Nat → Byte

end Sys2Proof
end

