-- ==== Sys2Proof/Machine/Memory.lean ====
section
/-! DEFINITION. The RAM (20_memory R60 to R65): a sorted list of cells over the contents that reset leaves. -/

namespace Sys2Proof.Machine

/-- `MEM_SIZE` (00_scope R5). -/
def memSize : Nat := 4096

/-- What an address reads as when no cell is listed for it: its contents after reset, the font at `FONT_BASE`
and zero everywhere else (10_state R40, 20_memory R61, R62). DEDUCED, safe: log entry 13. -/
def Memory.background (c : Config) (a : Nat) : Byte :=
  if c.fontBase.toNat ≤ a ∧ a < c.fontBase.toNat + 80 then c.fontData.getD (a - c.fontBase.toNat) 0#8 else 0#8

/-- The byte at an address (`MemRead(addr, 1)`, 20_memory R65). -/
def Memory.read (c : Config) : List Host.Cell → Nat → Byte
  | [], a => Memory.background c a
  | cell :: m, a => if cell.1 = a then cell.2 else Memory.read c m a

/-- The cells that stand for the byte `v` at `a`: none when `a` reads as `v` unlisted. -/
def Memory.cells (c : Config) (a : Nat) (v : Byte) : List Host.Cell :=
  if v = Memory.background c a then [] else [(a, v)]

/-- `MemWrite(addr, 1, v)` (20_memory R65): every older cell of `a` goes, the new one stands in order. -/
def Memory.write (c : Config) (a : Nat) (v : Byte) : List Host.Cell → List Host.Cell
  | [] => Memory.cells c a v
  | cell :: m =>
    if cell.1 < a then cell :: Memory.write c a v m
    else Memory.cells c a v ++ (cell :: m).filter (fun d => decide (d.1 ≠ a))

/-- Bytes written to consecutive addresses, the first at `a`, in ascending order (20_memory R67). -/
def Memory.writeList (c : Config) : Nat → List Byte → List Host.Cell → List Host.Cell
  | _, [], m => m
  | a, v :: vs, m => Memory.writeList c (a + 1) vs (Memory.write c a v m)

/-- The canonical form: addresses strictly rising, all inside the RAM, none listed that reads the same unlisted. -/
abbrev Memory.wf (c : Config) (m : List Host.Cell) : Prop :=
  m.Pairwise (fun d e => d.1 < e.1) ∧ ∀ d ∈ m, d.1 < memSize ∧ d.2 ≠ Memory.background c d.1

end Sys2Proof.Machine
end

