-- ==== Sys2Proof/Machine/Font.lean ====
section
/-! DEFINITION. The default configuration (00_scope R6) with the customary font (20_memory R63). -/

namespace Sys2Proof.Machine

/-- Glyphs 0 to 7 of the table of 20_memory R63, top row first. -/
def fontLow : List Byte :=
  [0xF0, 0x90, 0x90, 0x90, 0xF0] ++ [0x20, 0x60, 0x20, 0x20, 0x70] ++
  [0xF0, 0x10, 0xF0, 0x80, 0xF0] ++ [0xF0, 0x10, 0xF0, 0x10, 0xF0] ++
  [0x90, 0x90, 0xF0, 0x10, 0x10] ++ [0xF0, 0x80, 0xF0, 0x10, 0xF0] ++
  [0xF0, 0x80, 0xF0, 0x90, 0xF0] ++ [0xF0, 0x10, 0x20, 0x40, 0x40]

/-- Glyphs 8 to F of the table of 20_memory R63, top row first. -/
def fontHigh : List Byte :=
  [0xF0, 0x90, 0xF0, 0x90, 0xF0] ++ [0xF0, 0x90, 0xF0, 0x10, 0xF0] ++
  [0xF0, 0x90, 0xF0, 0x90, 0x90] ++ [0xE0, 0x90, 0xE0, 0x90, 0xE0] ++
  [0xF0, 0x80, 0x80, 0x80, 0xF0] ++ [0xE0, 0x90, 0x90, 0x90, 0xE0] ++
  [0xF0, 0x80, 0xF0, 0x80, 0xF0] ++ [0xF0, 0x80, 0xF0, 0x80, 0x80]

/-- `FONT_DATA`'s default: the customary font of 20_memory R63, which the spec itself marks as general knowledge (G1).
UNVERIFIED, unsafe: log entry 5. -/
def defaultFontData : List Byte := fontLow ++ fontHigh

/-- The defaults of 00_scope R6 (92_eei D5 to D8). The spec's own choices: a claim about reset holds of
this configuration only. UNVERIFIED, unsafe: log entry 4. -/
def defaultConfig : Config :=
  { fontBase := 0x000, fontData := defaultFontData, shiftSrc := .y, loadStoreIncI := false, unimplPolicy := .skip }

end Sys2Proof.Machine
end

