-- ==== Sys2Proof/Machine/State.lean ====
section
/-! DEFINITION. The state of the core (10_state R20), its enumerations, the reasons a step stops, the state after reset. -/

namespace Sys2Proof.Machine

/-- `exec_state` (10_state R33). -/
inductive ExecState where
  | running
  | paused
  | quit
  deriving DecidableEq, Repr

/-- `kw_state` (10_state R36): the key-wait sub-state of FX0A. -/
inductive KwState where
  | idle
  | press
  | release
  deriving DecidableEq, Repr

/-- `fault_code` (60_exceptions R285). -/
inductive FaultCode where
  | none
  | fetchRange
  | stackOverflow
  | stackUnderflow
  | memRange
  | keyRange
  | unimplementedOpcode
  deriving DecidableEq, Repr

/-- `status` (10_state R38): the result of the most recent `step`. -/
inductive StepStatus where
  | ok
  | unimplemented
  | fault
  | suppressed
  | faulted
  deriving DecidableEq, Repr

/-- The framebuffer (10_state R31): 32 rows of 64 cells, row 0 the top, cell 0 the leftmost, true for on. -/
abbrev Framebuffer := Vector (Vector Bool 64) 32

/-- Reasons for which a step of the model stops with a fault: there are none, so the type has no constructor.
Every fault of this hardware is a record in the state after which the machine goes on (60_exceptions R284,
R293), so the model takes it as a next state. DEDUCED, safe: log entry 1. -/
inductive Fault : Type where
  deriving DecidableEq, Repr

/-- Reasons for which the model gives an instruction no meaning. -/
inductive Refusal where
  /-- Raised by an arm of `exec` whose instruction has no meaning yet: no arm is left that raises it. Safe: the
  model stops where the hardware goes on. -/
  | notModelled (mnemonic : String)
  deriving DecidableEq, Repr

/-- The complete state (10_state R20) and, last, the model's own two fields. -/
structure State where
  /-- general registers V0 to VF (R21) -/
  V : Vector Byte 16
  /-- index register (R23) -/
  I : Word
  /-- program counter (R24) -/
  pc : Word
  /-- the sixteen slots of the call stack (R25) -/
  stack : Vector Word 16
  /-- how many return addresses the stack holds, 0 to 16 (R26) -/
  sp : Fin 17
  /-- delay timer (R27) -/
  DT : Byte
  /-- sound timer (R28) -/
  ST : Byte
  /-- RAM, as `Machine/Memory.lean` holds it (R30) -/
  mem : List Host.Cell
  /-- framebuffer (R31) -/
  fb : Framebuffer
  /-- key state latch, true for pressed (R32) -/
  keypad : Vector Bool 16
  /-- `exec_state` (R33) -/
  execState : ExecState
  /-- most recently fetched opcode (R34) -/
  ir : Word
  /-- framebuffer changed since the last render (R35) -/
  dirty : Bool
  /-- `kw_state` (R36) -/
  kwState : KwState
  /-- `kw_idx` (R36) -/
  kwIdx : Nibble
  /-- `fault_valid` (R37) -/
  faultValid : Bool
  /-- `fault_code` (R37) -/
  faultCode : FaultCode
  /-- `fault_pc` (R37) -/
  faultPc : Word
  /-- `fault_info` (R37) -/
  faultInfo : Word
  /-- `status` (R38) -/
  status : StepStatus
  /-- The parameters the core was constructed with (00_scope R6): the model's own field. DESIGN CHOICE, safe: log
  entry 2. -/
  cfg : Config
  /-- How many random bytes have been drawn: the model's own field. DESIGN CHOICE, safe: log entry 3. -/
  draws : Nat
  deriving DecidableEq, Repr

/-- The "after power-on reset" column of 10_state R40, for any configuration (70_reset_and_hazards R320). -/
def State.powerOn (c : Config) : State where
  V := Vector.replicate 16 0#8
  I := 0#16
  pc := 0x200#16
  stack := Vector.replicate 16 0#16
  sp := 0
  DT := 0#8
  ST := 0#8
  mem := []
  fb := Vector.replicate 32 (Vector.replicate 64 false)
  keypad := Vector.replicate 16 false
  execState := .running
  ir := 0#16
  dirty := false
  kwState := .idle
  kwIdx := 0#4
  faultValid := false
  faultCode := .none
  faultPc := 0#16
  faultInfo := 0#16
  status := .ok
  cfg := c
  draws := 0

/-- The machine right after power-on reset with the default configuration (R40).
UNVERIFIED, unsafe: log entries 4 and 10. -/
def State.reset : State := State.powerOn defaultConfig

end Sys2Proof.Machine
end

