-- ==== Sys2Proof/Machine/Ops.lean ====
section
/-! DEFINITION. The named operations over registers, memory, stack, keypad and status; recording a fault. -/

namespace Sys2Proof.Machine

/-- `V[x]` (00_scope R10). -/
def State.reg (s : State) (x : Nibble) : Byte := s.V[x.toNat]'x.isLt

/-- `V[x] <- v`. -/
def State.setReg (s : State) (x : Nibble) (v : Byte) : State := { s with V := s.V.set x.toNat v x.isLt }

/-- A result into VX, then a flag into VF (40_fetch_step R125): with X = F the flag stands, the spec's own choice (D10).
UNVERIFIED, unsafe: log entry 9. -/
def State.setRegFlag (s : State) (x : Nibble) (v flag : Byte) : State := (s.setReg x v).setReg 0xF#4 flag

/-- `I <- v`. -/
def State.setI (s : State) (v : Word) : State := { s with I := v }

/-- `pc <- target`. -/
def State.setPc (s : State) (target : Word) : State := { s with pc := target }

/-- `pc <- pc + 2`: the advance before every action and the taken skip (40_fetch_step R123, 41_control_flow R148).
DEDUCED, safe: log entry 15 (no wrap is reached). -/
def State.advance (s : State) : State := s.setPc (s.pc + 2#16)

/-- A skip when the condition holds (R148). -/
def State.skipIf (s : State) (c : Bool) : State := if c then s.advance else s

/-- `DT <- v`. -/
def State.setDT (s : State) (v : Byte) : State := { s with DT := v }

/-- `ST <- v`. -/
def State.setST (s : State) (v : Byte) : State := { s with ST := v }

/-- `status <- v` (10_state R38). -/
def State.setStatus (s : State) (v : StepStatus) : State := { s with status := v }

/-- `ir <- op` (10_state R34). -/
def State.latchIr (s : State) (op : Word) : State := { s with ir := op }

/-- `MemRead(addr, 1)` for an address in range (20_memory R65). -/
def State.readByte (s : State) (a : Nat) : Byte := Memory.read s.cfg s.mem a

/-- Bytes stored to consecutive addresses from `a` (20_memory R65, R67). -/
def State.storeBytes (s : State) (a : Nat) (vs : List Byte) : State :=
  { s with mem := Memory.writeList s.cfg a vs s.mem }

/-- V0 to VX in order: X + 1 registers (43_index_memory R194). -/
def State.regsUpTo (s : State) (x : Nibble) : List Byte :=
  (List.range (x.toNat + 1)).map (fun k => s.reg (BitVec.ofNat 4 k))

/-- `for k in 0 .. n - 1: V[k] <- MemRead(I + k, 1)` (43_index_memory R195). -/
def State.loadRegs (s : State) : Nat → State
  | 0 => s
  | k + 1 => (s.loadRegs k).setReg (BitVec.ofNat 4 k) (s.readByte (s.I.toNat + k))

/-- `stack[sp] <- a; sp <- sp + 1` (10_state R26); a full stack stays as it is (2NNN faults on it first). -/
def State.pushReturn (s : State) (a : Word) : State :=
  if h : s.sp.val < 16 then { s with stack := s.stack.set s.sp.val a h, sp := ⟨s.sp.val + 1, by omega⟩ } else s

/-- `sp <- sp - 1; pc <- stack[sp]` (10_state R26); an empty stack leaves all as it is (00EE faults on it first). -/
def State.popReturn (s : State) : State :=
  if h : 0 < s.sp.val then
    { s with sp := ⟨s.sp.val - 1, by omega⟩, pc := s.stack[s.sp.val - 1]'(by omega) }
  else s

/-- `keypad[k]` (10_state R32). -/
def State.keyPressed (s : State) (k : Nibble) : Bool := s.keypad[k.toNat]'k.isLt

/-- `keypad[k] <- b`. -/
def State.setKey (s : State) (k : Nibble) (b : Bool) : State := { s with keypad := s.keypad.set k.toNat b k.isLt }

/-- The least k with `keypad[k] = 1`, when there is one (45_keypad_timers R232). -/
def State.leastKey (s : State) : Option Nibble :=
  ((List.range 16).map (BitVec.ofNat 4)).find? (fun k => s.keyPressed k)

/-- `kw_state <- v` (10_state R36). -/
def State.setKwState (s : State) (v : KwState) : State := { s with kwState := v }

/-- `kw_idx <- k; kw_state <- KW_RELEASE` (45_keypad_timers R232). -/
def State.latchKey (s : State) (k : Nibble) : State := { s with kwIdx := k, kwState := .release }

/-- `exec_state <- v` (10_state R33). -/
def State.setExecState (s : State) (v : ExecState) : State := { s with execState := v }

/-- `fb` as given and `dirty <- 1` (10_state R35). -/
def State.show (s : State) (fb : Framebuffer) : State := { s with fb := fb, dirty := true }

/-- `dirty <- 0` (46_host_operations R258). -/
def State.clearDirty (s : State) : State := { s with dirty := false }

/-- `draw8()` (46_host_operations R260): the byte of this draw. -/
def State.randomByte (s : State) : Byte := Config.rnd s.draws

/-- The next draw is a fresh one (R260: two draws are unrelated). -/
def State.countDraw (s : State) : State := { s with draws := s.draws + 1 }

/-- `raise F(info)` (60_exceptions R284), applied to the state the instruction found, `ir` already latched: no
effect of the instruction is kept, the fault is recorded at its own address, and `pc` stays there. -/
def State.raise (s : State) (code : FaultCode) (info : Word) : State :=
  { s with faultValid := true, faultCode := code, faultPc := s.pc, faultInfo := info, status := .fault }

/-- The end of an instruction that completes: `status <- ST_OK` (40_fetch_step R122). -/
def complete (s : State) : Host.Outcome State Fault Refusal := .next (s.setStatus .ok)

/-- An action run behind the one check of its instruction (60_exceptions R292): it runs on the advanced state
when the check passes (40_fetch_step R123), else the fault is raised.
DEDUCED, safe: log entry 6. -/
def completeOrRaise (ok : Bool) (code : FaultCode) (info : Word) (s : State) (action : State → State) :
    Host.Outcome State Fault Refusal :=
  if ok then complete (action s.advance) else .next (s.raise code info)

end Sys2Proof.Machine
end

