-- ==== Sys2Proof/Machine/Cycle.lean ====
section
/-! DEFINITION. Fetch and the step cycle (40_fetch_step), over any way of running the decoded instruction. -/

namespace Sys2Proof.Machine

/-- Both bytes at `pc` lie in the RAM: `pc <= 0xFFE` (R120). -/
def State.fetchable (s : State) : Bool := decide (s.pc.toNat ≤ 0xFFE)

/-- The two bytes at `pc`, high byte first (R120, 20_memory R66). -/
def State.fetchWord (s : State) : Word := wordOfBytes (s.readByte s.pc.toNat) (s.readByte (s.pc.toNat + 1))

/-- An unimplemented opcode (30_encoding R101): stepped over and reported under `skip`, a fault under `halt`. -/
def State.unimplementedOp (s : State) (op : Word) : State :=
  match s.cfg.unimplPolicy with
  | .skip => s.advance.setStatus .unimplemented
  | .halt => s.raise .unimplementedOpcode op

/-- Fetch, decode and execute (R122), `run` executing what was decoded on the state that has latched `ir`. -/
def fetchDecodeExecute (run : Instr → State → Host.Outcome State Fault Refusal) (s : State) :
    Host.Outcome State Fault Refusal :=
  if s.fetchable then
    match decode s.fetchWord with
    | .instr i => run i (s.latchIr s.fetchWord)
    | .unimplemented op => .next ((s.latchIr s.fetchWord).unimplementedOp op)
  else .next (s.raise .fetchRange s.pc)

/-- One `step` (R121, R122): the gates in their order, then the cycle. -/
def cycle (run : Instr → State → Host.Outcome State Fault Refusal) (s : State) : Host.Outcome State Fault Refusal :=
  match s.execState with
  | .quit => .next s
  | .paused => .next (s.setStatus .suppressed)
  | .running => if s.faultValid then .next (s.setStatus .faulted) else fetchDecodeExecute run s

/-- The bytes of a table word stored where `step` fetches next: at `pc`, the high byte at the lower address. -/
def State.placeWord (s : State) (nbits w : Nat) : State := s.storeBytes s.pc.toNat (tableBytes nbits w)

end Sys2Proof.Machine
end

