-- ==== Sys2Proof/Machine/Operands.lean ====
section
/-! DEFINITION. The operand forms: immediates, the shift source, addresses through `I` and their range check. -/

namespace Sys2Proof.Machine

/-- `zext_16(NNN)` (30_encoding R93). -/
def zextAddr (nnn : Addr) : Word := nnn.setWidth 16

/-- `zext_16(v)` (00_scope R11). -/
def zextByte (v : Byte) : Word := v.setWidth 16

/-- `zext_8(k)` (00_scope R11). -/
def zextNibble (k : Nibble) : Byte := k.setWidth 8

/-- The value 8XY6 and 8XYE shift: VY, or VX under `SHIFT_SRC = X` (42_load_alu R168, R170). -/
def State.shiftSource (s : State) (x y : Nibble) : Byte :=
  match s.cfg.shiftSrc with
  | .y => s.reg y
  | .x => s.reg x

/-- The glyph address of FX29, VX unmasked (43_index_memory R192). -/
def State.glyphAddress (s : State) (x : Nibble) : Word := s.cfg.fontBase + 5#16 * zextByte (s.reg x)

/-- Whether the `n` bytes from `I` lie in the RAM; `n = 0` accesses nothing (43_index_memory R196, 60_exceptions R289). -/
def State.dataInRange (s : State) (n : Nat) : Bool := n == 0 || decide (s.I.toNat + n - 1 ≤ 0xFFF)

/-- The lowest address above 0xFFF of an access that leaves the RAM: `max(I, 0x1000)` (60_exceptions R285). -/
def State.lowestBad (s : State) : Word := if s.I.toNat ≤ 0x1000 then 0x1000#16 else s.I

/-- `if LOADSTORE_INC_I: I <- I + X + 1` (43_index_memory R194, R195). -/
def State.incIndex (s : State) (x : Nibble) : State :=
  if s.cfg.loadStoreIncI then s.setI (s.I + x.setWidth 16 + 1#16) else s

/-- Hundreds, tens and ones (43_index_memory R193). -/
def decimalDigits (v : Byte) : List Byte := [v / 100#8, (v / 10#8) % 10#8, v % 10#8]

/-- A register value as a key index when it is one (45_keypad_timers R230): 16 to 255 name no key. -/
def isKeyIndex (v : Byte) : Bool := decide (v.toNat ≤ 15)

/-- The key a register value names (R230). -/
def keyOf (v : Byte) : Nibble := v.setWidth 4

end Sys2Proof.Machine
end

