-- ==== Sys2Proof/Machine/Control.lean ====
section
/-! DEFINITION. Control transfer and skips: the meanings of 41_control_flow. -/

namespace Sys2Proof.Machine

/-- 00EE `RET` (R140); `StackUnderflow` on an empty stack, the opcode in `ir` as its datum (60_exceptions R285, R288).
DEDUCED, safe: log entry 7. -/
def execRet (s : State) : Host.Outcome State Fault Refusal :=
  completeOrRaise (decide (0 < s.sp.val)) .stackUnderflow s.ir s (fun n => n.popReturn)

/-- 1NNN `JP NNN` (R141). -/
def execJp (nnn : Addr) (s : State) : Host.Outcome State Fault Refusal :=
  complete (s.advance.setPc (zextAddr nnn))

/-- 2NNN `CALL NNN` (R142): pushes the advanced `pc`; `StackOverflow` on a full stack (60_exceptions R285, R287).
DEDUCED, safe: log entry 7. -/
def execCall (nnn : Addr) (s : State) : Host.Outcome State Fault Refusal :=
  completeOrRaise (decide (s.sp.val < 16)) .stackOverflow s.ir s (fun n => (n.pushReturn n.pc).setPc (zextAddr nnn))

/-- 3XNN `SE Vx, NN` (R143). -/
def execSeImm (x : Nibble) (nn : Byte) (s : State) : Host.Outcome State Fault Refusal :=
  complete (s.advance.skipIf (s.reg x == nn))

/-- 4XNN `SNE Vx, NN` (R144). -/
def execSneImm (x : Nibble) (nn : Byte) (s : State) : Host.Outcome State Fault Refusal :=
  complete (s.advance.skipIf (s.reg x != nn))

/-- 5XY0 `SE Vx, Vy` (R145). -/
def execSeReg (x y : Nibble) (s : State) : Host.Outcome State Fault Refusal :=
  complete (s.advance.skipIf (s.reg x == s.reg y))

/-- 9XY0 `SNE Vx, Vy` (R146). -/
def execSneReg (x y : Nibble) (s : State) : Host.Outcome State Fault Refusal :=
  complete (s.advance.skipIf (s.reg x != s.reg y))

/-- BNNN `JP V0, NNN` (R147): the 16-bit sum, not reduced to 12 bits. -/
def execJpV0 (nnn : Addr) (s : State) : Host.Outcome State Fault Refusal :=
  complete (s.advance.setPc (zextAddr nnn + zextByte (s.reg 0#4)))

end Sys2Proof.Machine
end

