-- ==== Sys2Proof/Machine/Raster.lean ====
section
/-! DEFINITION. The sprite rasteriser (44_display R211 to R213), loop for loop as the spec writes it. -/

namespace Sys2Proof.Machine

/-- `GRAPHICS_WIDTH` (00_scope R5). -/
def screenWidth : Nat := 64

/-- `GRAPHICS_HEIGHT` (00_scope R5). -/
def screenHeight : Nat := 32

/-- A row of cells that are off. -/
def blankRow : Vector Bool 64 := Vector.replicate 64 false

/-- `fb[x][y]` (10_state R31); off outside the grid, where no instruction looks. -/
def cellAt (fb : Framebuffer) (x y : Nat) : Bool := (fb.getD y blankRow).getD x false

/-- `fb[x][y] <- b`; outside the grid, where no instruction draws, nothing. -/
def setCell (fb : Framebuffer) (x y : Nat) (b : Bool) : Framebuffer :=
  fb.setIfInBounds y ((fb.getD y blankRow).setIfInBounds x b)

/-- All 2048 cells off (R210). -/
def blankScreen : Framebuffer := Vector.replicate 32 blankRow

/-- `b[7 - c]`: column c of a sprite byte, bit 7 the leftmost (R213). -/
def spriteBit (b : Byte) (c : Nat) : Bool := b.getLsbD (7 - c)

/-- One set bit of a sprite: a cell that was on goes off and counts as a collision, else it goes on (R211). -/
def toggleCell (p : Framebuffer × Bool) (x y : Nat) : Framebuffer × Bool :=
  if cellAt p.1 x y then (setCell p.1 x y false, true) else (setCell p.1 x y true, p.2)

/-- Columns 0 to cols - 1 of one row byte at (x0, y) (R211, the inner loop). -/
def drawRow (b : Byte) (x0 y cols : Nat) (p : Framebuffer × Bool) : Framebuffer × Bool :=
  (List.range cols).foldl (fun p c => if spriteBit b c then toggleCell p (x0 + c) y else p) p

/-- Rows 0 to rows - 1, row r from the byte `row r` (R211, the outer loop). -/
def drawRows (row : Nat → Byte) (x0 y0 cols : Nat) : Nat → Framebuffer × Bool → Framebuffer × Bool
  | 0, p => p
  | r + 1, p => drawRow (row r) x0 (y0 + r) cols (drawRows row x0 y0 cols r p)

/-- `x0`: the origin column, wrapped (R211). -/
def originX (vx : Byte) : Nat := vx.toNat % screenWidth

/-- `y0`: the origin row, wrapped (R211). -/
def originY (vy : Byte) : Nat := vy.toNat % screenHeight

/-- `rows`: rows below the bottom edge are not drawn (R211). -/
def visibleRows (vy : Byte) (n : Nibble) : Nat := min n.toNat (screenHeight - originY vy)

/-- `cols`: columns right of the right edge are not drawn (R211). -/
def visibleCols (vx : Byte) : Nat := min 8 (screenWidth - originX vx)

/-- The framebuffer and the collision after a sprite of `n` rows at `I` is drawn at (vx, vy) (R211). -/
def State.drawSprite (s : State) (vx vy : Byte) (n : Nibble) : Framebuffer × Bool :=
  drawRows (fun r => s.readByte (s.I.toNat + r)) (originX vx) (originY vy) (visibleCols vx) (visibleRows vy n)
    (s.fb, false)

end Sys2Proof.Machine
end

