-- ==== Sys2Proof/Machine/Display.lean ====
section
/-! DEFINITION. Display: the meanings of 44_display. -/

namespace Sys2Proof.Machine

/-- 00E0 `CLS` (R210). -/
def execCls (s : State) : Host.Outcome State Fault Refusal :=
  complete (s.advance.show blankScreen)

/-- DXYN `DRW Vx, Vy, N` (R211): only the rows that are drawn are read and checked. -/
def execDrw (x y n : Nibble) (s : State) : Host.Outcome State Fault Refusal :=
  completeOrRaise (s.dataInRange (visibleRows (s.reg y) n)) .memRange s.lowestBad s
    (fun t => (t.show (s.drawSprite (s.reg x) (s.reg y) n).1).setReg 0xF#4
      (collisionFlag (s.drawSprite (s.reg x) (s.reg y) n).2))

end Sys2Proof.Machine
end

