-- ==== Sys2Proof/Machine/IndexMemory.lean ====
section
/-! DEFINITION. Index register and memory transfer: the meanings of 43_index_memory. -/

namespace Sys2Proof.Machine

/-- ANNN `LD I, NNN` (R190). -/
def execLdI (nnn : Addr) (s : State) : Host.Outcome State Fault Refusal :=
  complete (s.advance.setI (zextAddr nnn))

/-- FX1E `ADD I, Vx` (R191): modulo 65536, no flag. -/
def execAddI (x : Nibble) (s : State) : Host.Outcome State Fault Refusal :=
  complete (s.advance.setI (s.I + zextByte (s.reg x)))

/-- FX29 `LD F, Vx` (R192). -/
def execLdF (x : Nibble) (s : State) : Host.Outcome State Fault Refusal :=
  complete (s.advance.setI (s.glyphAddress x))

/-- FX33 `LD B, Vx` (R193). -/
def execLdB (x : Nibble) (s : State) : Host.Outcome State Fault Refusal :=
  completeOrRaise (s.dataInRange 3) .memRange s.lowestBad s
    (fun n => n.storeBytes s.I.toNat (decimalDigits (s.reg x)))

/-- FX55 `LD [I], Vx` (R194). -/
def execLdMemVx (x : Nibble) (s : State) : Host.Outcome State Fault Refusal :=
  completeOrRaise (s.dataInRange (x.toNat + 1)) .memRange s.lowestBad s
    (fun n => (n.storeBytes s.I.toNat (s.regsUpTo x)).incIndex x)

/-- FX65 `LD Vx, [I]` (R195). -/
def execLdVxMem (x : Nibble) (s : State) : Host.Outcome State Fault Refusal :=
  completeOrRaise (s.dataInRange (x.toNat + 1)) .memRange s.lowestBad s
    (fun n => (n.loadRegs (x.toNat + 1)).incIndex x)

end Sys2Proof.Machine
end

