-- ==== Sys2Proof/Machine/KeypadTimers.lean ====
section
/-! DEFINITION. Keypad and timer instructions: the meanings of 45_keypad_timers. -/

namespace Sys2Proof.Machine

/-- EX9E `SKP Vx` (R230); `KeyRange` when VX names no key (60_exceptions R290). -/
def execSkp (x : Nibble) (s : State) : Host.Outcome State Fault Refusal :=
  completeOrRaise (isKeyIndex (s.reg x)) .keyRange (zextByte (s.reg x)) s
    (fun n => n.skipIf (s.keyPressed (keyOf (s.reg x))))

/-- EXA1 `SKNP Vx` (R231). -/
def execSknp (x : Nibble) (s : State) : Host.Outcome State Fault Refusal :=
  completeOrRaise (isKeyIndex (s.reg x)) .keyRange (zextByte (s.reg x)) s
    (fun n => n.skipIf (!s.keyPressed (keyOf (s.reg x))))

/-- FX0A before a key is latched (R232): latch the least pressed key, else note that one is awaited.
The least key is the spec's own choice (D12). UNVERIFIED, unsafe: log entry 8. -/
def State.awaitPress (s : State) : State :=
  match s.leastKey with
  | some k => s.latchKey k
  | none => s.setKwState .press

/-- FX0A `LD Vx, K` (R232): a waiting execution leaves `pc` at the instruction; the one that finds the latched
key released stores its index and lets `pc` advance. -/
def execLdVxK (x : Nibble) (s : State) : Host.Outcome State Fault Refusal :=
  match s.kwState with
  | .idle => complete s.awaitPress
  | .press => complete s.awaitPress
  | .release =>
    if s.keyPressed s.kwIdx then complete s
    else complete ((s.advance.setReg x (zextNibble s.kwIdx)).setKwState .idle)

/-- FX07 `LD Vx, DT` (R233). -/
def execLdVxDT (x : Nibble) (s : State) : Host.Outcome State Fault Refusal :=
  complete (s.advance.setReg x s.DT)

/-- FX15 `LD DT, Vx` (R234). -/
def execLdDTVx (x : Nibble) (s : State) : Host.Outcome State Fault Refusal :=
  complete (s.advance.setDT (s.reg x))

/-- FX18 `LD ST, Vx` (R235). -/
def execLdSTVx (x : Nibble) (s : State) : Host.Outcome State Fault Refusal :=
  complete (s.advance.setST (s.reg x))

end Sys2Proof.Machine
end

