-- ==== Sys2Proof/Machine/LoadAlu.lean ====
section
/-! DEFINITION. Register load, ALU and random: the meanings of 42_load_alu. -/

namespace Sys2Proof.Machine

/-- 6XNN `LD Vx, NN` (R160). -/
def execLdImm (x : Nibble) (nn : Byte) (s : State) : Host.Outcome State Fault Refusal :=
  complete (s.advance.setReg x nn)

/-- 7XNN `ADD Vx, NN` (R161): modulo 256, VF not written. -/
def execAddImm (x : Nibble) (nn : Byte) (s : State) : Host.Outcome State Fault Refusal :=
  complete (s.advance.setReg x (s.reg x + nn))

/-- 8XY0 `LD Vx, Vy` (R162). -/
def execLdReg (x y : Nibble) (s : State) : Host.Outcome State Fault Refusal :=
  complete (s.advance.setReg x (s.reg y))

/-- 8XY1 `OR Vx, Vy` (R163): VF not written. -/
def execOrReg (x y : Nibble) (s : State) : Host.Outcome State Fault Refusal :=
  complete (s.advance.setReg x (s.reg x ||| s.reg y))

/-- 8XY2 `AND Vx, Vy` (R164): VF not written. -/
def execAndReg (x y : Nibble) (s : State) : Host.Outcome State Fault Refusal :=
  complete (s.advance.setReg x (s.reg x &&& s.reg y))

/-- 8XY3 `XOR Vx, Vy` (R165): VF not written. -/
def execXorReg (x y : Nibble) (s : State) : Host.Outcome State Fault Refusal :=
  complete (s.advance.setReg x (s.reg x ^^^ s.reg y))

/-- 8XY4 `ADD Vx, Vy` (R166). -/
def execAddReg (x y : Nibble) (s : State) : Host.Outcome State Fault Refusal :=
  complete (s.advance.setRegFlag x (s.reg x + s.reg y) (carryFlag (s.reg x) (s.reg y)))

/-- 8XY5 `SUB Vx, Vy` (R167). -/
def execSubReg (x y : Nibble) (s : State) : Host.Outcome State Fault Refusal :=
  complete (s.advance.setRegFlag x (s.reg x - s.reg y) (notBorrowFlag (s.reg x) (s.reg y)))

/-- 8XY6 `SHR Vx, Vy` (R168). -/
def execShrReg (x y : Nibble) (s : State) : Host.Outcome State Fault Refusal :=
  complete (s.advance.setRegFlag x (s.shiftSource x y >>> 1) (shiftRightFlag (s.shiftSource x y)))

/-- 8XY7 `SUBN Vx, Vy` (R169). -/
def execSubnReg (x y : Nibble) (s : State) : Host.Outcome State Fault Refusal :=
  complete (s.advance.setRegFlag x (s.reg y - s.reg x) (notBorrowFlag (s.reg y) (s.reg x)))

/-- 8XYE `SHL Vx, Vy` (R170). -/
def execShlReg (x y : Nibble) (s : State) : Host.Outcome State Fault Refusal :=
  complete (s.advance.setRegFlag x (s.shiftSource x y <<< 1) (shiftLeftFlag (s.shiftSource x y)))

/-- CXNN `RND Vx, NN` (R171): a fresh free byte each time (46_host_operations R260, log entry 3). -/
def execRnd (x : Nibble) (nn : Byte) (s : State) : Host.Outcome State Fault Refusal :=
  complete (s.advance.countDraw.setReg x (s.randomByte &&& nn))

end Sys2Proof.Machine
end

