-- ==== Sys2Proof/Machine/Step.lean ====
section
/-! DEFINITION. The host-invoked operation `step` (40_fetch_step R122). -/

namespace Sys2Proof.Machine

/-- One invocation of `step`: at most one instruction (R121, R122, R124). -/
def step (s : State) : Host.Outcome State Fault Refusal := cycle exec s

/-- The state with a table word placed where `step` fetches its next instruction, so that the next step runs it.
It stands for the host's `load_program`. DEDUCED, safe: log entry 11. -/
def State.withFetchWord (s : State) (nbits w : Nat) : State := s.placeWord nbits w

end Sys2Proof.Machine
end

