-- ==== Sys2Proof/Machine/Outputs.lean ====
section
/-! DEFINITION. The output ports (46_host_operations R250, R259): functions of the state, with the spec's encodings
(the enumerations are inductive types in the state: log entry 18). -/

namespace Sys2Proof.Machine

/-- `RUNNING = 0`, `PAUSED = 1`, `QUIT = 2` (10_state R33). -/
def execStateCode : ExecState → BitVec 2
  | .running => 0
  | .paused => 1
  | .quit => 2

/-- `KW_IDLE = 0`, `KW_PRESS = 1`, `KW_RELEASE = 2` (10_state R36). -/
def kwStateCode : KwState → BitVec 2
  | .idle => 0
  | .press => 1
  | .release => 2

/-- The fault codes (60_exceptions R285). -/
def faultCodeNumber : FaultCode → BitVec 3
  | .none => 0
  | .fetchRange => 1
  | .stackOverflow => 2
  | .stackUnderflow => 3
  | .memRange => 4
  | .keyRange => 5
  | .unimplementedOpcode => 6

/-- The status codes (10_state R38). -/
def statusCode : StepStatus → BitVec 3
  | .ok => 0
  | .unimplemented => 1
  | .fault => 2
  | .suppressed => 3
  | .faulted => 4

/-- `sound_on` (10_state R29). -/
def State.soundOn (s : State) : Bool := decide (s.ST ≠ 0#8)

/-- `awaiting_key` (10_state R36). -/
def State.awaitingKey (s : State) : Bool := decide (s.kwState ≠ .idle)

/-- The snapshot of the framebuffer: element `y * 64 + x` is the cell (x, y) (10_state R31). -/
def State.snapshot (s : State) : List Bool :=
  (List.range 2048).map (fun k => cellAt s.fb (k % 64) (k / 64))

/-- What the host reads (R250). -/
structure OutputPorts where
  fb : List Bool
  dirty : Bool
  execState : BitVec 2
  ir : Word
  soundOn : Bool
  DT : Byte
  ST : Byte
  status : BitVec 3
  awaitingKey : Bool
  faultValid : Bool
  faultCode : BitVec 3
  faultPc : Word
  faultInfo : Word
  deriving DecidableEq, Repr

/-- The outputs at every instant (R250, R259). -/
def State.outputs (s : State) : OutputPorts where
  fb := s.snapshot
  dirty := s.dirty
  execState := execStateCode s.execState
  ir := s.ir
  soundOn := s.soundOn
  DT := s.DT
  ST := s.ST
  status := statusCode s.status
  awaitingKey := s.awaitingKey
  faultValid := s.faultValid
  faultCode := faultCodeNumber s.faultCode
  faultPc := s.faultPc
  faultInfo := s.faultInfo

end Sys2Proof.Machine
end

