-- ==== Sys2Proof/WellFormed.lean ====
section
/-! DEFINITION. What is well formed: an instruction (always, by its types), a configuration, a program image. -/

namespace Sys2Proof

/-- Every value of every operand field is legal in every instruction that has the field (30_encoding R93), and
the operand types hold no other value, so no instruction is ill formed. -/
def Instr.wellFormed : Instr → Bool
  | .cls | .ret => true
  | .jp _ | .call _ | .ldI _ | .jpV0 _ => true
  | .seImm _ _ | .sneImm _ _ | .ldImm _ _ | .addImm _ _ | .rnd _ _ => true
  | .seReg _ _ | .sneReg _ _ | .ldReg _ _ | .orReg _ _ | .andReg _ _ | .xorReg _ _ => true
  | .addReg _ _ | .subReg _ _ | .shrReg _ _ | .subnReg _ _ | .shlReg _ _ => true
  | .drw _ _ _ => true
  | .skp _ | .sknp _ | .ldVxDT _ | .ldVxK _ | .ldDTVx _ | .ldSTVx _ => true
  | .addI _ | .ldF _ | .ldB _ | .ldMemVx _ | .ldVxMem _ => true

/-- `FONT_BASE + 80 <= 0x200` (00_scope R6). -/
def Config.fontBaseFits (c : Config) : Bool := decide (c.fontBase.toNat + 80 ≤ 0x200)

/-- `FONT_DATA` has 80 bytes (20_memory R63). -/
def Config.fontDataFits (c : Config) : Bool := decide (c.fontData.length = 80)

/-- A legal configuration (00_scope R6). -/
def Config.wellFormed (c : Config) : Bool := c.fontBaseFits && c.fontDataFits

/-- `PROG_MAX` (00_scope R5): 4096 - 0x200 = 3584 bytes. -/
def progMax : Nat := 3584

/-- An image that `load_program` accepts (20_memory R64, 70_reset_and_hazards R321, R322). -/
def imageFits (bytes : List Byte) : Bool := decide (bytes.length ≤ progMax)

end Sys2Proof
end

