-- ==== Sys2Proof/Machine/HostOps.lean ====
section
/-! DEFINITION. The host operations other than `step` (46_host_operations, 70_reset_and_hazards R320 to R323). -/

namespace Sys2Proof.Machine

/-- Nothing changes in QUIT (46_host_operations R257). -/
def State.unlessQuit (s : State) (op : State → State) : State :=
  match s.execState with
  | .quit => s
  | .running => op s
  | .paused => op s

/-- A timer's decrement toward 0 (R252). -/
def countDown (t : Byte) : Byte := if t = 0#8 then 0#8 else t - 1#8

/-- `tick_timers()` (R252). -/
def tickTimers (s : State) : State := s.unlessQuit (fun t => (t.setDT (countDown t.DT)).setST (countDown t.ST))

/-- `key_down(k)` (R253). -/
def keyDown (k : Nibble) (s : State) : State := s.unlessQuit (fun t => t.setKey k true)

/-- `key_up(k)` (R254). -/
def keyUp (k : Nibble) (s : State) : State := s.unlessQuit (fun t => t.setKey k false)

/-- `request_pause()` (R255). -/
def requestPause (s : State) : State :=
  match s.execState with
  | .running => s.setExecState .paused
  | .paused => s
  | .quit => s

/-- `request_resume()` (R256). -/
def requestResume (s : State) : State :=
  match s.execState with
  | .paused => s.setExecState .running
  | .running => s
  | .quit => s

/-- `request_quit()` (R257). -/
def requestQuit (s : State) : State := s.setExecState .quit

/-- `frame_ack()` (R258). -/
def frameAck (s : State) : State := s.unlessQuit (fun t => t.clearDirty)

/-- The draws that follow a reset are as fresh as those before it: nothing is seeded (R260, log entry 3). -/
def State.keepDraws (s : State) (t : State) : State := { t with draws := s.draws }

/-- `reset()` (70_reset_and_hazards R320), in every state, with the configuration supplied. -/
def powerOnReset (c : Config) (s : State) : State := s.keepDraws (State.powerOn c)

/-- What `load_program` returns (R321 to R323). -/
inductive LoadResult where
  /-- the image is loaded (R321) -/
  | success
  /-- `ImageTooLarge` (R322, 60_exceptions R281) -/
  | imageTooLarge
  /-- the refusal in QUIT (R323) -/
  | refusedInQuit
  deriving DecidableEq, Repr

/-- The state after a successful load (R321, 10_state R40): all of reset, the configuration kept, the image at 0x200. -/
def State.loaded (s : State) (bytes : List Byte) : State :=
  (powerOnReset s.cfg s).storeBytes 0x200 bytes

/-- `load_program(bytes)` (R321 to R323): the result and the state. The length is checked before anything else and
in every state (R322, 60_exceptions R281); an image that fits is refused in QUIT alone (R323). -/
def loadProgram (bytes : List Byte) (s : State) : LoadResult × State :=
  if imageFits bytes then
    match s.execState with
    | .quit => (.refusedInQuit, s)
    | .running => (.success, s.loaded bytes)
    | .paused => (.success, s.loaded bytes)
  else (.imageTooLarge, s)

end Sys2Proof.Machine
end

