-- ==== Sys2Proof/Machine/Schedule.lean ====
section
/-! DEFINITION. The ten operations of the interface (46_host_operations R250) and their schedules (R251). -/

namespace Sys2Proof.Machine

/-- The operations a host invokes (R250). -/
inductive HostOp where
  | reset (c : Config)
  | loadProgram (bytes : List Byte)
  | step
  | tickTimers
  | keyDown (k : Nibble)
  | keyUp (k : Nibble)
  | requestPause
  | requestResume
  | requestQuit
  | frameAck
  deriving DecidableEq, Repr

/-- One operation, atomic (R251). -/
def invoke (o : HostOp) (s : State) : Host.Outcome State Fault Refusal :=
  match o with
  | .reset c => .next (powerOnReset c s)
  | .loadProgram bytes => .next (loadProgram bytes s).2
  | .step => step s
  | .tickTimers => .next (tickTimers s)
  | .keyDown k => .next (keyDown k s)
  | .keyUp k => .next (keyUp k s)
  | .requestPause => .next (requestPause s)
  | .requestResume => .next (requestResume s)
  | .requestQuit => .next (requestQuit s)
  | .frameAck => .next (frameAck s)

/-- A schedule: operations one after another, in any order the host likes (R251). A run of `step` alone is the one
schedule without ticks, keys or requests: log entry 12, unsafe where it is taken for all of them. -/
def runSchedule : List HostOp → State → Host.Outcome State Fault Refusal
  | [], s => .next s
  | o :: os, s =>
    match invoke o s with
    | .next t => runSchedule os t
    | .fault r => .fault r
    | .refused r => .refused r

/-- Every configuration a schedule's resets supply is legal (00_scope R6). -/
def HostOp.legal : HostOp → Bool
  | .reset c => c.wellFormed
  | .loadProgram _ => true
  | .step => true
  | .tickTimers => true
  | .keyDown _ => true
  | .keyUp _ => true
  | .requestPause => true
  | .requestResume => true
  | .requestQuit => true
  | .frameAck => true

end Sys2Proof.Machine
end

