-- ==== Sys2Proof/Safety.lean ====
section
/-! DEFINITION. The terms claims are stated in: frames, the invariants of the machine, and runs of schedules. -/

namespace Sys2Proof.Machine

/-! ### Frames -/

/-- Every byte of memory reads as before. -/
def MemSame (s t : State) : Prop := ∀ a : Nat, t.readByte a = s.readByte a

/-- Every byte of memory outside the `n` bytes from `a` reads as before. -/
def MemSameOutside (a n : Nat) (s t : State) : Prop := ∀ b : Nat, (b < a ∨ a + n ≤ b) → t.readByte b = s.readByte b

/-- Every register but those listed reads as before. -/
def RegsSameBut (ds : List Nibble) (s t : State) : Prop := ∀ r : Nibble, r ∉ ds → t.reg r = s.reg r

/-- Nothing changed but `pc` and `status`. -/
def OnlyFlow (s t : State) : Prop :=
  t = { s with pc := t.pc, status := t.status } ∧ RegsSameBut [] s t ∧ MemSame s t

/-- Nothing changed but the registers listed, `pc` and `status`. -/
def OnlyRegs (ds : List Nibble) (s t : State) : Prop :=
  t = { s with V := t.V, pc := t.pc, status := t.status } ∧ RegsSameBut ds s t ∧ MemSame s t

/-- Nothing changed but `I`, `pc` and `status`. -/
def OnlyIndex (s t : State) : Prop :=
  t = { s with I := t.I, pc := t.pc, status := t.status } ∧ RegsSameBut [] s t ∧ MemSame s t

/-- The instruction completed and the next word follows: `pc = pc0 + 2`, `status = ST_OK` (40_fetch_step R123). -/
def Completed (s t : State) : Prop := t.pc = s.pc + 2#16 ∧ t.status = .ok

/-- The fault was recorded at `pc0` and nothing else changed (60_exceptions R284). -/
def Recorded (code : FaultCode) (info : Word) (s t : State) : Prop :=
  t = { s with faultValid := true, faultCode := code, faultPc := s.pc, faultInfo := info, status := .fault }

/-! ### Which instructions -/

/-- The X field of the instructions that have one (30_encoding R92). -/
def xField : Instr → Option Nibble
  | .cls | .ret => none
  | .jp _ | .call _ | .ldI _ | .jpV0 _ => none
  | .seImm x _ | .sneImm x _ | .ldImm x _ | .addImm x _ | .rnd x _ => some x
  | .seReg x _ | .sneReg x _ | .ldReg x _ | .orReg x _ | .andReg x _ | .xorReg x _ => some x
  | .addReg x _ | .subReg x _ | .shrReg x _ | .subnReg x _ | .shlReg x _ => some x
  | .drw x _ _ => some x
  | .skp x | .sknp x | .ldVxDT x | .ldVxK x | .ldDTVx x | .ldSTVx x => some x
  | .addI x | .ldF x | .ldB x | .ldMemVx x | .ldVxMem x => some x

/-- The instructions that write VF as a flag (10_state R22). -/
def writesFlag : Instr → Bool
  | .addReg _ _ | .subReg _ _ | .shrReg _ _ | .subnReg _ _ | .shlReg _ _ | .drw _ _ _ => true
  | .cls | .ret | .jp _ | .call _ | .ldI _ | .jpV0 _ => false
  | .seImm _ _ | .sneImm _ _ | .ldImm _ _ | .addImm _ _ | .rnd _ _ => false
  | .seReg _ _ | .sneReg _ _ | .ldReg _ _ | .orReg _ _ | .andReg _ _ | .xorReg _ _ => false
  | .skp _ | .sknp _ | .ldVxDT _ | .ldVxK _ | .ldDTVx _ | .ldSTVx _ => false
  | .addI _ | .ldF _ | .ldB _ | .ldMemVx _ | .ldVxMem _ => false

/-! ### Sprites -/

/-- Whether columns 0 to cols - 1 of the byte `b`, drawn from x0, cover column u: column c is bit 7 - c of the byte
(44_display R213). -/
def coversColumn (b : Byte) (x0 cols u : Nat) : Bool :=
  decide (x0 ≤ u) && decide (u < x0 + cols) && b.getLsbD (7 - (u - x0))

/-- Whether a sprite of the given rows, drawn at (x0, y0), covers the cell (u, v). -/
def coversCell (row : Nat → Byte) (x0 y0 cols rows u v : Nat) : Bool :=
  decide (y0 ≤ v) && decide (v < y0 + rows) && coversColumn (row (v - y0)) x0 cols u

/-! ### Invariants -/

/-- The RAM is in its canonical form. -/
def MemInv (s : State) : Prop := Memory.wf s.cfg s.mem

/-- The configuration is legal (00_scope R6). -/
def ConfigInv (s : State) : Prop := s.cfg.wellFormed = true

/-- The fault record is blank exactly while no fault is recorded (10_state R37). -/
def FaultInv (s : State) : Prop :=
  if s.faultValid then s.faultCode ≠ .none
  else s.faultCode = .none ∧ s.faultPc = 0#16 ∧ s.faultInfo = 0#16

/-- `pc` and the return addresses stay in the ranges of 10_state R24 and 41_control_flow R140. -/
def FlowInv (s : State) : Prop :=
  s.pc.toNat ≤ 0x10FE ∧ ∀ k : Fin 16, (s.stack[k.val]'k.isLt).toNat ≤ 0x1000

/-- During a key wait the word at `pc` is an FX0A (45_keypad_timers R232). -/
def WaitInv (s : State) : Prop :=
  s.kwState ≠ .idle → s.fetchable = true ∧ ∃ x : Nibble, s.fetchWord = encode (.ldVxK x)

/-- All of them. -/
def MachineInv (s : State) : Prop := MemInv s ∧ ConfigInv s ∧ FaultInv s ∧ FlowInv s ∧ WaitInv s

/-! ### Runs -/

/-- A state that some schedule of legal operations reaches from power-on reset (46_host_operations R251). -/
def Reachable (s : State) : Prop :=
  ∃ (c : Config) (ops : List HostOp), c.wellFormed = true ∧ (ops.all HostOp.legal) = true ∧
    runSchedule ops (State.powerOn c) = .next s

/-- A state in which `step` executes an instruction (40_fetch_step R121). -/
def CanStep (s : State) : Prop := s.execState = .running ∧ s.faultValid = false

end Sys2Proof.Machine
end

