-- ==== Sys2Proof/Certificates/Slice0/Obligations.lean ====
section
/-! DEFINITION. The statements for the provers, each from the numbered rules its docstring names. -/

open Sys2Proof Sys2Proof.Machine

/-! ### Encoding -/

/-- 30_encoding R91, R92, R94, R96: every instruction, with every operand, is read back from its word. -/
def Obligations.DecodeOfEncode : Prop := ∀ i : Instr, decode (encode i) = .instr i

/-- 30_encoding R91, R92, R96, R97: a word that decodes is the word of what it decodes to, so no fixed bit is
ignored. -/
def Obligations.EncodeOfDecode : Prop := ∀ (op : Word) (i : Instr), decode op = .instr i → encode i = op

/-- 30_encoding R94: the decoder agrees with the mask and match of the table, and at most one row matches. -/
def Obligations.OpcodeTableSelects : Prop :=
  opcodeTable.map (fun r => (r.mask, r.bits)) =
      [(0xFFFF, 0x00E0), (0xFFFF, 0x00EE), (0xF000, 0x1000), (0xF000, 0x2000), (0xF000, 0x3000), (0xF000, 0x4000),
       (0xF00F, 0x5000), (0xF000, 0x6000), (0xF000, 0x7000), (0xF00F, 0x8000), (0xF00F, 0x8001), (0xF00F, 0x8002),
       (0xF00F, 0x8003), (0xF00F, 0x8004), (0xF00F, 0x8005), (0xF00F, 0x8006), (0xF00F, 0x8007), (0xF00F, 0x800E),
       (0xF00F, 0x9000), (0xF000, 0xA000), (0xF000, 0xB000), (0xF000, 0xC000), (0xF000, 0xD000), (0xF0FF, 0xE09E),
       (0xF0FF, 0xE0A1), (0xF0FF, 0xF007), (0xF0FF, 0xF00A), (0xF0FF, 0xF015), (0xF0FF, 0xF018), (0xF0FF, 0xF01E),
       (0xF0FF, 0xF029), (0xF0FF, 0xF033), (0xF0FF, 0xF055), (0xF0FF, 0xF065)] ∧
    (∀ (op : Word) (i : Instr), decode op = .instr i → tableRow i ∈ opcodeTable ∧ op &&& (tableRow i).mask = (tableRow i).bits) ∧
    (∀ op : Word, ∀ r ∈ opcodeTable, op &&& r.mask = r.bits → ∃ i, decode op = .instr i ∧ tableRow i = r) ∧
    (∀ op : Word, ∀ r ∈ opcodeTable, ∀ q ∈ opcodeTable, op &&& r.mask = r.bits → op &&& q.mask = q.bits → r = q)

/-- 30_encoding R97, R100: exactly these words are unimplemented. -/
def Obligations.UnimplementedWords : Prop :=
  ∀ op : Word, decode op = .unimplemented op ↔
    (fieldOP op = 0x0 ∧ op ≠ 0x00E0 ∧ op ≠ 0x00EE) ∨
    (fieldOP op = 0x5 ∧ fieldN op ≠ 0) ∨
    (fieldOP op = 0x8 ∧ fieldN op ∈ [0x8, 0x9, 0xA, 0xB, 0xC, 0xD, 0xF]) ∨
    (fieldOP op = 0x9 ∧ fieldN op ≠ 0) ∨
    (fieldOP op = 0xE ∧ fieldNN op ∉ [0x9E, 0xA1]) ∨
    (fieldOP op = 0xF ∧ fieldNN op ∉ [0x07, 0x0A, 0x15, 0x18, 0x1E, 0x29, 0x33, 0x55, 0x65])

/-- Words of 30_encoding R103 and of the encoding vectors decode to what they stand for: a sanity statement. -/
def Obligations.SampleWordsDecode : Prop :=
  decode 0x632A#16 = .instr (.ldImm 3 0x2A) ∧ decode 0xD125#16 = .instr (.drw 1 2 5) ∧
  decode 0x8AB4#16 = .instr (.addReg 0xA 0xB) ∧ decode 0x1234#16 = .instr (.jp 0x234) ∧
  decode 0xA22A#16 = .instr (.ldI 0x22A) ∧ decode 0xE49E#16 = .instr (.skp 4) ∧
  decode 0xF265#16 = .instr (.ldVxMem 2) ∧ decode 0x00EE#16 = .instr .ret ∧
  decode 0x5121#16 = .unimplemented 0x5121#16

/-! ### Fetch and the step cycle -/

/-- 40_fetch_step R120, R122, 30_encoding R90: a step runs the instruction that the big-endian word at `pc` decodes
to, on the state that has latched the word; what the step adds around `exec` is that latch alone (the advance of
`pc` and the status are in `exec`). -/
def Obligations.StepRunsDecoded : Prop :=
  ∀ (s : State) (op : Word) (i : Instr), s.execState = .running → s.faultValid = false → s.pc.toNat ≤ 0xFFE →
    op.toNat = (s.readByte s.pc.toNat).toNat * 256 + (s.readByte (s.pc.toNat + 1)).toNat →
    decode op = .instr i → step s = exec i { s with ir := op }

/-- 40_fetch_step R121: the three cases in which a step executes no instruction, in their order. -/
def Obligations.StepGating : Prop :=
  ∀ s : State,
    (s.execState = .quit → step s = .next s) ∧
    (s.execState = .paused → step s = .next { s with status := .suppressed }) ∧
    (s.execState = .running → s.faultValid = true → step s = .next { s with status := .faulted })

/-- 60_exceptions R286, 40_fetch_step R120: a fetch above 0xFFE records FetchRange, `pc` and `ir` as they were. -/
def Obligations.FetchRangeRecorded : Prop :=
  ∀ s : State, s.execState = .running → s.faultValid = false → 0xFFE < s.pc.toNat →
    step s = .next { s with faultValid := true, faultCode := .fetchRange, faultPc := s.pc, faultInfo := s.pc,
                            status := .fault }

/-- 30_encoding R101: an unimplemented opcode under either policy. -/
def Obligations.UnimplementedPolicy : Prop :=
  ∀ (s : State) (op : Word), s.execState = .running → s.faultValid = false → s.pc.toNat ≤ 0xFFE →
    op = s.readByte s.pc.toNat ++ s.readByte (s.pc.toNat + 1) → decode op = .unimplemented op →
    (s.cfg.unimplPolicy = .skip →
      step s = .next { s with ir := op, pc := s.pc + 2#16, status := .unimplemented }) ∧
    (s.cfg.unimplPolicy = .halt →
      step s = .next { s with ir := op, faultValid := true, faultCode := .unimplementedOpcode, faultPc := s.pc,
                              faultInfo := op, status := .fault })

/-- 60_exceptions R284: faults are precise. -/
def Obligations.FaultsArePrecise : Prop :=
  ∀ s t : State, s.execState = .running → s.faultValid = false → step s = .next t → t.faultValid = true →
    t = { s with ir := t.ir, faultValid := true, faultCode := t.faultCode, faultPc := s.pc,
                 faultInfo := t.faultInfo, status := .fault } ∧
    (s.pc.toNat ≤ 0xFFE → t.ir = s.readByte s.pc.toNat ++ s.readByte (s.pc.toNat + 1)) ∧
    (0xFFE < s.pc.toNat → t.ir = s.ir)

/-- 60_exceptions R285 (the spec's own decision D1): the codes, and for each fault what raises it, why, and its datum;
the record stays blank while no fault is recorded. -/
def Obligations.FaultTable : Prop :=
  ([FaultCode.none, .fetchRange, .stackOverflow, .stackUnderflow, .memRange, .keyRange, .unimplementedOpcode].map
      faultCodeNumber = [0, 1, 2, 3, 4, 5, 6]) ∧
  (∀ s t : State, s.execState = .running → s.faultValid = false → step s = .next t → t.faultValid = true →
    (t.faultCode = .fetchRange ∧ 0xFFE < s.pc.toNat ∧ t.faultInfo = s.pc) ∨
    (s.pc.toNat ≤ 0xFFE ∧
      ((t.faultCode = .unimplementedOpcode ∧ s.cfg.unimplPolicy = .halt ∧ t.faultInfo = t.ir ∧
          decode t.ir = .unimplemented t.ir) ∨
       (∃ i : Instr, decode t.ir = .instr i ∧
         (((∃ nnn, i = .call nnn) ∧ t.faultCode = .stackOverflow ∧ s.sp.val = 16 ∧ t.faultInfo = t.ir) ∨
          (i = .ret ∧ t.faultCode = .stackUnderflow ∧ s.sp.val = 0 ∧ t.faultInfo = 0x00EE#16) ∨
          ((∃ x y n, i = .drw x y n ∧ 0xFFF < s.I.toNat + min n.toNat (32 - (s.reg y).toNat % 32) - 1 ∧
              0 < n.toNat) ∧ t.faultCode = .memRange ∧ t.faultInfo.toNat = max s.I.toNat 0x1000) ∨
          ((∃ x, i = .ldB x) ∧ 0xFFF < s.I.toNat + 2 ∧ t.faultCode = .memRange ∧
              t.faultInfo.toNat = max s.I.toNat 0x1000) ∨
          ((∃ x, (i = .ldMemVx x ∨ i = .ldVxMem x) ∧ 0xFFF < s.I.toNat + x.toNat) ∧ t.faultCode = .memRange ∧
              t.faultInfo.toNat = max s.I.toNat 0x1000) ∨
          (∃ x, (i = .skp x ∨ i = .sknp x) ∧ 15 < (s.reg x).toNat ∧ t.faultCode = .keyRange ∧
              t.faultInfo.toNat = (s.reg x).toNat)))))) ∧
  (∀ s t : State, s.faultValid = false → s.faultCode = .none → s.faultInfo = 0 → step s = .next t →
    t.faultValid = false → t.faultCode = .none ∧ t.faultInfo = 0)

/-- 60_exceptions R292: no instruction raises two different faults, and 26 raise none. -/
def Obligations.OneFaultPerInstruction : Prop :=
  ∀ (i : Instr) (s t : State), s.faultValid = false → exec i s = .next t → t.faultValid = true →
    match i with
    | .call _ => t.faultCode = .stackOverflow
    | .ret => t.faultCode = .stackUnderflow
    | .skp _ | .sknp _ => t.faultCode = .keyRange
    | .drw _ _ _ | .ldB _ | .ldMemVx _ | .ldVxMem _ => t.faultCode = .memRange
    | _ => False

/-- Every fault of the hardware is recorded in a next state, so no step stops: the model's reading of 60_exceptions
R284 and R293, log entry 1. -/
def Obligations.EveryStepAnswers : Prop :=
  (∀ s : State, ∃ t, step s = .next t) ∧ ∀ (i : Instr) (s : State), ∃ t, exec i s = .next t

/-- 40_fetch_step R126: what a step never changes, and what a completed one has always written. -/
def Obligations.StepNeverChanges : Prop :=
  ∀ s t : State, step s = .next t →
    t.execState = s.execState ∧ t.keypad = s.keypad ∧ t.cfg = s.cfg ∧
    ((s.faultValid = true ∨ t.faultValid = false) → t.faultValid = s.faultValid ∧ t.faultCode = s.faultCode ∧
      t.faultPc = s.faultPc ∧ t.faultInfo = s.faultInfo) ∧
    (s.execState = .running → s.faultValid = false → s.pc.toNat ≤ 0xFFE →
      t.ir = s.readByte s.pc.toNat ++ s.readByte (s.pc.toNat + 1))

/-! ### What no instruction does -/

/-- 44_display R214, 10_state R31, R35: the framebuffer and its dirty flag change by 00E0 and DXYN only. -/
def Obligations.OnlyDisplayWritesScreen : Prop :=
  ∀ (i : Instr) (s t : State), exec i s = .next t → i ≠ .cls → (∀ x y n, i ≠ .drw x y n) →
    t.fb = s.fb ∧ t.dirty = s.dirty

/-- 10_state R22: VF is written as a flag by six instructions and is otherwise an ordinary destination. -/
def Obligations.WhoWritesVF : Prop :=
  ∀ (i : Instr) (s t : State), exec i s = .next t →
    (writesFlag i = false → xField i ≠ some 0xF#4 → t.reg 0xF#4 = s.reg 0xF#4) ∧
    (writesFlag i = true → t.status = .ok → t.reg 0xF#4 = 0 ∨ t.reg 0xF#4 = 1)

/-- 10_state R28, R35, R38, R42: no instruction reads the sound timer, the dirty flag or the status. -/
def Obligations.HostLatchesUnread : Prop :=
  ∀ (i : Instr) (s t : State) (st : Byte) (d : Bool) (q : StepStatus), exec i s = .next t →
    ∃ u : State, exec i { s with ST := st, dirty := d, status := q } = .next u ∧
      u = { t with ST := u.ST, dirty := u.dirty }

/-- 10_state R30, R42: FX33 and FX55 alone write memory, and only at the bytes from `I`. -/
def Obligations.OnlyStoresWriteMemory : Prop :=
  ∀ (i : Instr) (s t : State), exec i s = .next t →
    match i with
    | .ldB _ => MemSameOutside s.I.toNat 3 s t
    | .ldMemVx x => MemSameOutside s.I.toNat (x.toNat + 1) s t
    | _ => MemSame s t

/-! ### Control transfer and skips -/

/-- 41_control_flow R140, with the opcode as the fault's datum (60_exceptions R285): exec reads it from `ir`, where the
fetch of the step has latched it, which is the model's reading (DEDUCED, log entry 7). -/
def Obligations.ReturnPops : Prop :=
  encode .ret = 0x00EE#16 ∧ ∀ s : State,
    (∀ h : 0 < s.sp.val, ∃ t, exec .ret s = .next t ∧ t.sp.val = s.sp.val - 1 ∧
      t.pc = s.stack[s.sp.val - 1]'(by omega) ∧ t.status = .ok ∧
      t = { s with sp := t.sp, pc := t.pc, status := t.status } ∧ RegsSameBut [] s t ∧ MemSame s t) ∧
    (s.sp.val = 0 → exec .ret s = .next { s with faultValid := true, faultCode := .stackUnderflow, faultPc := s.pc,
                                                 faultInfo := s.ir, status := .fault })

/-- 41_control_flow R141. -/
def Obligations.JumpAbsolute : Prop :=
  ∀ (nnn : Addr) (s : State), encode (.jp nnn) = 0x1#4 ++ nnn ∧
    ∃ t, exec (.jp nnn) s = .next t ∧ t.pc.toNat = nnn.toNat ∧ t.status = .ok ∧ OnlyFlow s t

/-- 41_control_flow R142, with the opcode as the fault's datum (60_exceptions R285): exec reads it from `ir`, where the
fetch of the step has latched it, which is the model's reading (DEDUCED, log entry 7). -/
def Obligations.CallPushes : Prop :=
  ∀ (nnn : Addr) (s : State), encode (.call nnn) = 0x2#4 ++ nnn ∧
    (∀ h : s.sp.val < 16, ∃ t, exec (.call nnn) s = .next t ∧ t.sp.val = s.sp.val + 1 ∧
      t.stack = s.stack.set s.sp.val (s.pc + 2#16) h ∧ t.pc.toNat = nnn.toNat ∧ t.status = .ok ∧
      t = { s with stack := t.stack, sp := t.sp, pc := t.pc, status := t.status } ∧ RegsSameBut [] s t ∧
      MemSame s t) ∧
    (s.sp.val = 16 → exec (.call nnn) s = .next { s with faultValid := true, faultCode := .stackOverflow,
                                                         faultPc := s.pc, faultInfo := s.ir, status := .fault })

/-- 41_control_flow R143, R144. -/
def Obligations.SkipOnImmediate : Prop :=
  ∀ (x : Nibble) (nn : Byte) (s : State),
    encode (.seImm x nn) = 0x3#4 ++ x ++ nn ∧ encode (.sneImm x nn) = 0x4#4 ++ x ++ nn ∧
    (∃ t, exec (.seImm x nn) s = .next t ∧ t.pc = (if s.reg x = nn then s.pc + 4#16 else s.pc + 2#16) ∧
      t.status = .ok ∧ OnlyFlow s t) ∧
    (∃ t, exec (.sneImm x nn) s = .next t ∧ t.pc = (if s.reg x ≠ nn then s.pc + 4#16 else s.pc + 2#16) ∧
      t.status = .ok ∧ OnlyFlow s t)

/-- 41_control_flow R145, R146. -/
def Obligations.SkipOnRegisters : Prop :=
  ∀ (x y : Nibble) (s : State),
    encode (.seReg x y) = 0x5#4 ++ x ++ y ++ 0x0#4 ∧ encode (.sneReg x y) = 0x9#4 ++ x ++ y ++ 0x0#4 ∧
    (∃ t, exec (.seReg x y) s = .next t ∧ t.pc = (if s.reg x = s.reg y then s.pc + 4#16 else s.pc + 2#16) ∧
      t.status = .ok ∧ OnlyFlow s t) ∧
    (∃ t, exec (.sneReg x y) s = .next t ∧ t.pc = (if s.reg x ≠ s.reg y then s.pc + 4#16 else s.pc + 2#16) ∧
      t.status = .ok ∧ OnlyFlow s t)

/-- 41_control_flow R147. -/
def Obligations.JumpWithOffset : Prop :=
  ∀ (nnn : Addr) (s : State), encode (.jpV0 nnn) = 0xB#4 ++ nnn ∧
    ∃ t, exec (.jpV0 nnn) s = .next t ∧ t.pc.toNat = nnn.toNat + (s.reg 0).toNat ∧ t.status = .ok ∧ OnlyFlow s t

/-! ### Load, ALU, random -/

/-- 42_load_alu R160, R161. -/
def Obligations.LoadAndAddImmediate : Prop :=
  ∀ (x : Nibble) (nn : Byte) (s : State),
    encode (.ldImm x nn) = 0x6#4 ++ x ++ nn ∧ encode (.addImm x nn) = 0x7#4 ++ x ++ nn ∧
    (∃ t, exec (.ldImm x nn) s = .next t ∧ t.reg x = nn ∧ Completed s t ∧ OnlyRegs [x] s t) ∧
    (∃ t, exec (.addImm x nn) s = .next t ∧ (t.reg x).toNat = ((s.reg x).toNat + nn.toNat) % 256 ∧
      Completed s t ∧ OnlyRegs [x] s t)

/-- 42_load_alu R162 to R165: VF keeps its value unless it is the destination. -/
def Obligations.CopyAndLogic : Prop :=
  ∀ (x y : Nibble) (s : State),
    encode (.ldReg x y) = 0x8#4 ++ x ++ y ++ 0x0#4 ∧ encode (.orReg x y) = 0x8#4 ++ x ++ y ++ 0x1#4 ∧
    encode (.andReg x y) = 0x8#4 ++ x ++ y ++ 0x2#4 ∧ encode (.xorReg x y) = 0x8#4 ++ x ++ y ++ 0x3#4 ∧
    (∃ t, exec (.ldReg x y) s = .next t ∧ t.reg x = s.reg y ∧ Completed s t ∧ OnlyRegs [x] s t) ∧
    (∃ t, exec (.orReg x y) s = .next t ∧ t.reg x = s.reg x ||| s.reg y ∧ Completed s t ∧ OnlyRegs [x] s t) ∧
    (∃ t, exec (.andReg x y) s = .next t ∧ t.reg x = s.reg x &&& s.reg y ∧ Completed s t ∧ OnlyRegs [x] s t) ∧
    (∃ t, exec (.xorReg x y) s = .next t ∧ t.reg x = s.reg x ^^^ s.reg y ∧ Completed s t ∧ OnlyRegs [x] s t)

/-- 42_load_alu R166, with X = F leaving the carry (the spec's own decision D10). -/
def Obligations.AddWithCarry : Prop :=
  ∀ (x y : Nibble) (s : State), encode (.addReg x y) = 0x8#4 ++ x ++ y ++ 0x4#4 ∧
    ∃ t, exec (.addReg x y) s = .next t ∧
      (x ≠ 0xF#4 → (t.reg x).toNat = ((s.reg x).toNat + (s.reg y).toNat) % 256) ∧
      t.reg 0xF#4 = (if (s.reg x).toNat + (s.reg y).toNat > 255 then 1 else 0) ∧
      Completed s t ∧ OnlyRegs [x, 0xF#4] s t

/-- 42_load_alu R167, R169, with X = F leaving the flag (the spec's own decision D10). -/
def Obligations.Subtractions : Prop :=
  ∀ (x y : Nibble) (s : State),
    encode (.subReg x y) = 0x8#4 ++ x ++ y ++ 0x5#4 ∧ encode (.subnReg x y) = 0x8#4 ++ x ++ y ++ 0x7#4 ∧
    (∃ t, exec (.subReg x y) s = .next t ∧
      (x ≠ 0xF#4 → (t.reg x).toNat = ((s.reg x).toNat + 256 - (s.reg y).toNat) % 256) ∧
      t.reg 0xF#4 = (if (s.reg x).toNat ≥ (s.reg y).toNat then 1 else 0) ∧ Completed s t ∧ OnlyRegs [x, 0xF#4] s t) ∧
    (∃ t, exec (.subnReg x y) s = .next t ∧
      (x ≠ 0xF#4 → (t.reg x).toNat = ((s.reg y).toNat + 256 - (s.reg x).toNat) % 256) ∧
      t.reg 0xF#4 = (if (s.reg y).toNat ≥ (s.reg x).toNat then 1 else 0) ∧ Completed s t ∧ OnlyRegs [x, 0xF#4] s t)

/-- 42_load_alu R168, R170, for both values of SHIFT_SRC, with X = F leaving the flag (the spec's own decision D10). What
SHIFT_SRC = X shifts is marked by the rule as general knowledge (log entry 17). -/
def Obligations.Shifts : Prop :=
  ∀ (x y : Nibble) (s : State) (v : Nat), v = (if s.cfg.shiftSrc = .y then s.reg y else s.reg x).toNat →
    encode (.shrReg x y) = 0x8#4 ++ x ++ y ++ 0x6#4 ∧ encode (.shlReg x y) = 0x8#4 ++ x ++ y ++ 0xE#4 ∧
    (∃ t, exec (.shrReg x y) s = .next t ∧ (x ≠ 0xF#4 → (t.reg x).toNat = v / 2) ∧ (t.reg 0xF#4).toNat = v % 2 ∧
      Completed s t ∧ OnlyRegs [x, 0xF#4] s t) ∧
    (∃ t, exec (.shlReg x y) s = .next t ∧ (x ≠ 0xF#4 → (t.reg x).toNat = 2 * v % 256) ∧
      (t.reg 0xF#4).toNat = v / 128 ∧ Completed s t ∧ OnlyRegs [x, 0xF#4] s t)

/-- 42_load_alu R171: some byte, about which nothing is known, masked; the next draw is another (log entry 3). -/
def Obligations.RandomMasked : Prop :=
  ∀ (x : Nibble) (nn : Byte) (s : State), encode (.rnd x nn) = 0xC#4 ++ x ++ nn ∧
    ∃ t, exec (.rnd x nn) s = .next t ∧ t.reg x = Config.rnd s.draws &&& nn ∧ (nn = 0 → t.reg x = 0) ∧
      t.draws = s.draws + 1 ∧ Completed s t ∧
      t = { s with V := t.V, pc := t.pc, status := t.status, draws := t.draws } ∧ RegsSameBut [x] s t ∧ MemSame s t

/-! ### Index register and memory -/

/-- 43_index_memory R190, R191, R192, for every FONT_BASE. -/
def Obligations.IndexWrites : Prop :=
  ∀ (nnn : Addr) (x : Nibble) (s : State),
    encode (.ldI nnn) = 0xA#4 ++ nnn ∧ encode (.addI x) = 0xF#4 ++ x ++ 0x1E#8 ∧
    encode (.ldF x) = 0xF#4 ++ x ++ 0x29#8 ∧
    (∃ t, exec (.ldI nnn) s = .next t ∧ t.I.toNat = nnn.toNat ∧ Completed s t ∧ OnlyIndex s t) ∧
    (∃ t, exec (.addI x) s = .next t ∧ t.I.toNat = (s.I.toNat + (s.reg x).toNat) % 65536 ∧ Completed s t ∧
      OnlyIndex s t) ∧
    (∃ t, exec (.ldF x) s = .next t ∧
      t.I.toNat = (s.cfg.fontBase.toNat + 5 * (s.reg x).toNat) % 65536 ∧ Completed s t ∧ OnlyIndex s t)

/-- 43_index_memory R193. -/
def Obligations.StoreDecimal : Prop :=
  ∀ (x : Nibble) (s : State), encode (.ldB x) = 0xF#4 ++ x ++ 0x33#8 ∧
    (s.I.toNat + 2 ≤ 0xFFF → ∃ t, exec (.ldB x) s = .next t ∧
      (t.readByte s.I.toNat).toNat = (s.reg x).toNat / 100 ∧
      (t.readByte (s.I.toNat + 1)).toNat = (s.reg x).toNat / 10 % 10 ∧
      (t.readByte (s.I.toNat + 2)).toNat = (s.reg x).toNat % 10 ∧
      MemSameOutside s.I.toNat 3 s t ∧ Completed s t ∧
      t = { s with mem := t.mem, pc := t.pc, status := t.status } ∧ RegsSameBut [] s t) ∧
    (0xFFF < s.I.toNat + 2 → ∃ t, exec (.ldB x) s = .next t ∧ Recorded .memRange t.faultInfo s t ∧
      t.faultInfo.toNat = max s.I.toNat 0x1000)

/-- 43_index_memory R194, for both values of LOADSTORE_INC_I; that the increment is X + 1 is marked by the rule as
general knowledge (log entry 17). -/
def Obligations.StoreRegisters : Prop :=
  ∀ (x : Nibble) (s : State), encode (.ldMemVx x) = 0xF#4 ++ x ++ 0x55#8 ∧
    (s.I.toNat + x.toNat ≤ 0xFFF → ∃ t, exec (.ldMemVx x) s = .next t ∧
      (∀ k : Nibble, k.toNat ≤ x.toNat → t.readByte (s.I.toNat + k.toNat) = s.reg k) ∧
      t.I.toNat = (if s.cfg.loadStoreIncI = true then s.I.toNat + x.toNat + 1 else s.I.toNat) ∧
      MemSameOutside s.I.toNat (x.toNat + 1) s t ∧ Completed s t ∧
      t = { s with mem := t.mem, I := t.I, pc := t.pc, status := t.status } ∧ RegsSameBut [] s t) ∧
    (0xFFF < s.I.toNat + x.toNat → ∃ t, exec (.ldMemVx x) s = .next t ∧ Recorded .memRange t.faultInfo s t ∧
      t.faultInfo.toNat = max s.I.toNat 0x1000)

/-- 43_index_memory R195, for both values of LOADSTORE_INC_I (the increment: as for R194). -/
def Obligations.LoadRegisters : Prop :=
  ∀ (x : Nibble) (s : State), encode (.ldVxMem x) = 0xF#4 ++ x ++ 0x65#8 ∧
    (s.I.toNat + x.toNat ≤ 0xFFF → ∃ t, exec (.ldVxMem x) s = .next t ∧
      (∀ k : Nibble, t.reg k = if k.toNat ≤ x.toNat then s.readByte (s.I.toNat + k.toNat) else s.reg k) ∧
      t.I.toNat = (if s.cfg.loadStoreIncI = true then s.I.toNat + x.toNat + 1 else s.I.toNat) ∧
      Completed s t ∧ t = { s with V := t.V, I := t.I, pc := t.pc, status := t.status } ∧ MemSame s t) ∧
    (0xFFF < s.I.toNat + x.toNat → ∃ t, exec (.ldVxMem x) s = .next t ∧ Recorded .memRange t.faultInfo s t ∧
      t.faultInfo.toNat = max s.I.toNat 0x1000)

/-- 20_memory R76: the word that the very next fetch reads, and that the very next step runs, has the bytes that FX55
or FX33 has just stored wherever the store covers it, and the older bytes elsewhere (`b` is memory as the store
leaves it, by 43_index_memory R193 and R194). -/
def Obligations.StoreSeenByNextFetch : Prop :=
  ∀ (x : Nibble) (s t : State) (b : Nat → Byte) (op : Word), s.pc.toNat ≤ 0xFFC → t.status = .ok →
    ((exec (.ldMemVx x) s = .next t ∧ ∀ a : Nat, b a =
        if s.I.toNat ≤ a ∧ a ≤ s.I.toNat + x.toNat then s.reg (BitVec.ofNat 4 (a - s.I.toNat)) else s.readByte a) ∨
     (exec (.ldB x) s = .next t ∧ ∀ a : Nat, b a =
        if a = s.I.toNat then BitVec.ofNat 8 ((s.reg x).toNat / 100)
        else if a = s.I.toNat + 1 then BitVec.ofNat 8 ((s.reg x).toNat / 10 % 10)
        else if a = s.I.toNat + 2 then BitVec.ofNat 8 ((s.reg x).toNat % 10)
        else s.readByte a)) →
    op = b (s.pc.toNat + 2) ++ b (s.pc.toNat + 3) →
    t.fetchWord = op ∧
    (s.execState = .running → s.faultValid = false → ∀ i : Instr, decode op = .instr i →
      step t = exec i { t with ir := op })

/-! ### Display -/

/-- 44_display R210. -/
def Obligations.ClearScreen : Prop :=
  encode .cls = 0x00E0#16 ∧ ∀ s : State, ∃ t, exec .cls s = .next t ∧
    (∀ u v : Nat, u < 64 → v < 32 → cellAt t.fb u v = false) ∧ t.dirty = true ∧ Completed s t ∧
    t = { s with fb := t.fb, dirty := t.dirty, pc := t.pc, status := t.status } ∧ RegsSameBut [] s t ∧ MemSame s t

/-- 44_display R211: every cell, VF, the dirty flag and the fault. That bit 7 is the leftmost column is marked by
44_display R213 as general knowledge (log entry 17). -/
def Obligations.DrawSprite : Prop :=
  ∀ (x y n : Nibble) (s : State) (x0 y0 rows cols : Nat),
    x0 = (s.reg x).toNat % 64 → y0 = (s.reg y).toNat % 32 → rows = min n.toNat (32 - y0) → cols = min 8 (64 - x0) →
    encode (.drw x y n) = 0xD#4 ++ x ++ y ++ n ∧
    ((rows = 0 ∨ s.I.toNat + rows - 1 ≤ 0xFFF) → ∃ t, exec (.drw x y n) s = .next t ∧
      (∀ u v : Nat, u < 64 → v < 32 → cellAt t.fb u v =
        (cellAt s.fb u v ^^ coversCell (fun r => s.readByte (s.I.toNat + r)) x0 y0 cols rows u v)) ∧
      ((∃ u v : Nat, u < 64 ∧ v < 32 ∧ cellAt s.fb u v = true ∧
          coversCell (fun r => s.readByte (s.I.toNat + r)) x0 y0 cols rows u v = true) → t.reg 0xF#4 = 1) ∧
      ((∀ u v : Nat, u < 64 → v < 32 → cellAt s.fb u v = true →
          coversCell (fun r => s.readByte (s.I.toNat + r)) x0 y0 cols rows u v = false) → t.reg 0xF#4 = 0) ∧
      t.dirty = true ∧ Completed s t ∧
      t = { s with V := t.V, fb := t.fb, dirty := t.dirty, pc := t.pc, status := t.status } ∧
      RegsSameBut [0xF#4] s t ∧ MemSame s t) ∧
    (0 < rows → 0xFFF < s.I.toNat + rows - 1 → ∃ t, exec (.drw x y n) s = .next t ∧
      Recorded .memRange t.faultInfo s t ∧ t.faultInfo.toNat = max s.I.toNat 0x1000)

/-- 44_display R211, the source's double-XOR property: the same sprite at the same place twice restores every cell,
and the second draw collides iff the first turned some cell on. VF, which the first draw writes, does not hold the
origin. -/
def Obligations.DrawTwiceRestores : Prop :=
  ∀ (x y n : Nibble) (s t u : State), x ≠ 0xF#4 → y ≠ 0xF#4 →
    exec (.drw x y n) s = .next t → t.status = .ok → exec (.drw x y n) t = .next u →
    (∀ a b : Nat, a < 64 → b < 32 → cellAt u.fb a b = cellAt s.fb a b) ∧
    (u.reg 0xF#4 = 1 ↔ ∃ a b : Nat, a < 64 ∧ b < 32 ∧ cellAt s.fb a b = false ∧ cellAt t.fb a b = true)

/-! ### Keypad and timers -/

/-- 45_keypad_timers R230, R231. -/
def Obligations.SkipOnKey : Prop :=
  ∀ (x : Nibble) (s : State),
    encode (.skp x) = 0xE#4 ++ x ++ 0x9E#8 ∧ encode (.sknp x) = 0xE#4 ++ x ++ 0xA1#8 ∧
    (∀ k : Nibble, (s.reg x).toNat = k.toNat →
      (∃ t, exec (.skp x) s = .next t ∧ t.pc = (if s.keyPressed k then s.pc + 4#16 else s.pc + 2#16) ∧
        t.status = .ok ∧ OnlyFlow s t) ∧
      (∃ t, exec (.sknp x) s = .next t ∧ t.pc = (if s.keyPressed k then s.pc + 2#16 else s.pc + 4#16) ∧
        t.status = .ok ∧ OnlyFlow s t)) ∧
    (15 < (s.reg x).toNat →
      (∃ t, exec (.skp x) s = .next t ∧ Recorded .keyRange t.faultInfo s t ∧
        t.faultInfo.toNat = (s.reg x).toNat) ∧
      (∃ t, exec (.sknp x) s = .next t ∧ Recorded .keyRange t.faultInfo s t ∧
        t.faultInfo.toNat = (s.reg x).toNat))

/-- 45_keypad_timers R232 (the spec's own decision D12): one execution of FX0A in each of its sub-states. -/
def Obligations.KeyWait : Prop :=
  ∀ (x : Nibble) (s : State), encode (.ldVxK x) = 0xF#4 ++ x ++ 0x0A#8 ∧
    (s.kwState ≠ .release →
      (∀ k : Nibble, s.keyPressed k = true → (∀ q : Nibble, q.toNat < k.toNat → s.keyPressed q = false) →
        exec (.ldVxK x) s = .next { s with kwIdx := k, kwState := .release, status := .ok }) ∧
      ((∀ q : Nibble, s.keyPressed q = false) →
        exec (.ldVxK x) s = .next { s with kwState := .press, status := .ok })) ∧
    (s.kwState = .release → s.keyPressed s.kwIdx = true → exec (.ldVxK x) s = .next { s with status := .ok }) ∧
    (s.kwState = .release → s.keyPressed s.kwIdx = false → ∃ t, exec (.ldVxK x) s = .next t ∧
      (t.reg x).toNat = s.kwIdx.toNat ∧ t.kwState = .idle ∧ Completed s t ∧
      t = { s with V := t.V, kwState := t.kwState, pc := t.pc, status := t.status } ∧ RegsSameBut [x] s t ∧
      MemSame s t)

/-- 45_keypad_timers R232, 70_reset_and_hazards R331: a press and a release, each seen by a step, complete the
wait. -/
def Obligations.KeyWaitCompletes : Prop :=
  ∀ (x k : Nibble) (s : State), s.execState = .running → s.faultValid = false → s.pc.toNat ≤ 0xFFE →
    decode s.fetchWord = .instr (.ldVxK x) → s.kwState = .idle → (∀ q : Nibble, s.keyPressed q = false) →
    ∃ t, runSchedule [.step, .keyDown k, .step, .tickTimers, .keyUp k, .step] s = .next t ∧
      (t.reg x).toNat = k.toNat ∧ t.pc = s.pc + 2#16 ∧ t.kwState = .idle ∧ t.status = .ok ∧
      (∀ q : Nibble, t.keyPressed q = false) ∧ RegsSameBut [x] s t ∧ MemSame s t

/-- 45_keypad_timers R233, R234, R235; which opcode moves which way is marked by R233 as general knowledge (log entry
17). -/
def Obligations.TimerMoves : Prop :=
  ∀ (x : Nibble) (s : State),
    encode (.ldVxDT x) = 0xF#4 ++ x ++ 0x07#8 ∧ encode (.ldDTVx x) = 0xF#4 ++ x ++ 0x15#8 ∧
    encode (.ldSTVx x) = 0xF#4 ++ x ++ 0x18#8 ∧
    (∃ t, exec (.ldVxDT x) s = .next t ∧ t.reg x = s.DT ∧ Completed s t ∧ OnlyRegs [x] s t) ∧
    (∃ t, exec (.ldDTVx x) s = .next t ∧ t.DT = s.reg x ∧ Completed s t ∧
      t = { s with DT := t.DT, pc := t.pc, status := t.status } ∧ RegsSameBut [] s t ∧ MemSame s t) ∧
    (∃ t, exec (.ldSTVx x) s = .next t ∧ t.ST = s.reg x ∧ Completed s t ∧ t.soundOn = decide (s.reg x ≠ 0) ∧
      t = { s with ST := t.ST, pc := t.pc, status := t.status } ∧ RegsSameBut [] s t ∧ MemSame s t)

/-! ### Sequences -/

/-- 40_fetch_step R123: a call whose target holds a return comes back to the word after the call. -/
def Obligations.CallThenReturn : Prop :=
  ∀ (nnn : Addr) (s : State), s.execState = .running → s.faultValid = false → s.pc.toNat ≤ 0xFFE →
    decode s.fetchWord = .instr (.call nnn) → s.sp.val < 16 → nnn.toNat ≤ 0xFFE →
    decode (s.readByte nnn.toNat ++ s.readByte (nnn.toNat + 1)) = .instr .ret →
    ∃ t, runSchedule [.step, .step] s = .next t ∧ t.pc = s.pc + 2#16 ∧ t.sp = s.sp ∧ t.status = .ok ∧
      t = { s with pc := t.pc, stack := t.stack, ir := t.ir, status := t.status }

/-- 70_reset_and_hazards R332: a jump to itself changes nothing but `ir` and `status`, at every further step. -/
def Obligations.JumpToSelfStays : Prop :=
  ∀ (nnn : Addr) (s : State) (n : Nat), s.execState = .running → s.faultValid = false → s.pc.toNat = nnn.toNat →
    nnn.toNat ≤ 0xFFE → decode s.fetchWord = .instr (.jp nnn) →
    runSchedule (List.replicate (n + 1) .step) s = .next { s with ir := s.fetchWord, status := .ok }

/-! ### Host operations -/

/-- 46_host_operations R252. -/
def Obligations.TickCountsDown : Prop :=
  ∀ s : State,
    (s.execState = .quit → tickTimers s = s) ∧
    (s.execState ≠ .quit → (tickTimers s).DT.toNat = s.DT.toNat - 1 ∧ (tickTimers s).ST.toNat = s.ST.toNat - 1 ∧
      tickTimers s = { s with DT := (tickTimers s).DT, ST := (tickTimers s).ST })

/-- 46_host_operations R253, R254. -/
def Obligations.KeyEvents : Prop :=
  ∀ (k : Nibble) (s : State),
    (s.execState = .quit → keyDown k s = s ∧ keyUp k s = s) ∧
    (s.execState ≠ .quit →
      (∀ q : Nibble, (keyDown k s).keyPressed q = if q = k then true else s.keyPressed q) ∧
      (∀ q : Nibble, (keyUp k s).keyPressed q = if q = k then false else s.keyPressed q) ∧
      keyDown k s = { s with keypad := (keyDown k s).keypad } ∧ keyUp k s = { s with keypad := (keyUp k s).keypad })

/-- 46_host_operations R255, R256, R258. -/
def Obligations.HostRequests : Prop :=
  ∀ s : State,
    requestPause s = (if s.execState = .running then { s with execState := .paused } else s) ∧
    requestResume s = (if s.execState = .paused then { s with execState := .running } else s) ∧
    frameAck s = (if s.execState ≠ .quit then { s with dirty := false } else s)

/-- 46_host_operations R257: quit is entered from every state and is terminal but for power-on reset. -/
def Obligations.QuitIsTerminal : Prop :=
  (∀ s : State, requestQuit s = { s with execState := .quit }) ∧
  ∀ (o : HostOp) (s t : State), s.execState = .quit → (∀ c, o ≠ .reset c) → invoke o s = .next t → t = s

/-- 70_reset_and_hazards R320 (the spec's own decision D14), with the values of 10_state R40: power-on reset, for every
configuration and from every state, leaves each element of the state at its value, and alone leaves QUIT. -/
def Obligations.PowerOnState : Prop :=
  (∀ (o : HostOp) (s t : State), s.execState = .quit → invoke o s = .next t → t.execState ≠ .quit →
    ∃ c, o = .reset c) ∧
  ∀ (c : Config) (s t : State), (t = powerOnReset c s ∨ t = State.powerOn c) →
    (∀ r : Nibble, t.reg r = 0) ∧ t.I = 0 ∧ t.pc = 0x200 ∧ (∀ k : Fin 16, t.stack[k.val]'k.isLt = 0) ∧ t.sp = 0 ∧
    t.DT = 0 ∧ t.ST = 0 ∧
    (∀ k : Nat, k < 80 → t.readByte (c.fontBase.toNat + k) = c.fontData.getD k 0) ∧
    (∀ a : Nat, (a < c.fontBase.toNat ∨ c.fontBase.toNat + 80 ≤ a) → t.readByte a = 0) ∧
    (∀ u v : Nat, cellAt t.fb u v = false) ∧ (∀ k : Nibble, t.keyPressed k = false) ∧ t.execState = .running ∧
    t.ir = 0 ∧ t.dirty = false ∧ t.kwState = .idle ∧ t.kwIdx = 0 ∧ t.faultValid = false ∧ t.faultCode = .none ∧
    t.faultPc = 0 ∧ t.faultInfo = 0 ∧ t.status = .ok ∧ t.soundOn = false ∧ t.awaitingKey = false ∧ t.cfg = c ∧
    (c.wellFormed = true → decode t.fetchWord = .unimplemented 0#16)

/-- 70_reset_and_hazards R321 (the spec's own decisions D14, D15): a load that fits resets everything and lays the
image at 0x200. The statement leaves the model's own counter of draws open (log entry 3). -/
def Obligations.LoadProgramSucceeds : Prop :=
  ∀ (bytes : List Byte) (s : State), bytes.length ≤ 3584 → s.execState ≠ .quit → s.cfg.wellFormed = true →
    ∃ t, loadProgram bytes s = (.success, t) ∧
      (∀ k : Nat, k < bytes.length → t.readByte (0x200 + k) = bytes.getD k 0) ∧
      (∀ k : Nat, k < 80 → t.readByte (s.cfg.fontBase.toNat + k) = s.cfg.fontData.getD k 0) ∧
      (∀ a : Nat, (a < s.cfg.fontBase.toNat ∨ s.cfg.fontBase.toNat + 80 ≤ a) → (a < 0x200 ∨ 0x200 + bytes.length ≤ a) →
        t.readByte a = 0) ∧
      t = { State.powerOn s.cfg with mem := t.mem, draws := t.draws }

/-- 70_reset_and_hazards R322, R323, 60_exceptions R281: a load that is refused changes nothing; the length is checked
first, in every state. -/
def Obligations.LoadProgramRefused : Prop :=
  ∀ (bytes : List Byte) (s : State),
    (3584 < bytes.length → loadProgram bytes s = (.imageTooLarge, s)) ∧
    (bytes.length ≤ 3584 → s.execState = .quit → loadProgram bytes s = (.refusedInQuit, s))

/-- 60_exceptions R294 (the spec's own decisions D1, D15): what clears a recorded fault, that nothing else does, and that
both reset the whole machine, every byte of memory included. The statement leaves the model's own counter of draws
open (log entry 3). -/
def Obligations.FaultClearedOnlyByReset : Prop :=
  (∀ (c : Config) (s : State), ∃ t, invoke (.reset c) s = .next t ∧ t.faultValid = false) ∧
  (∀ (bytes : List Byte) (s : State), bytes.length ≤ 3584 → s.execState ≠ .quit →
    ∃ t, invoke (.loadProgram bytes) s = .next t ∧ t.faultValid = false) ∧
  ∀ (o : HostOp) (s t : State), s.faultValid = true → invoke o s = .next t → t.faultValid = false →
    (∃ c, o = .reset c ∧ t = { State.powerOn c with draws := t.draws }) ∨
    (∃ bytes, o = .loadProgram bytes ∧ bytes.length ≤ 3584 ∧ s.execState ≠ .quit ∧
      t = { State.powerOn s.cfg with mem := t.mem, draws := t.draws } ∧
      (∀ k : Nat, k < bytes.length → t.readByte (0x200 + k) = bytes.getD k 0) ∧
      (∀ a : Nat, (a < 0x200 ∨ 0x200 + bytes.length ≤ a) → t.readByte a = (State.powerOn s.cfg).readByte a))

/-- 60_exceptions R293: with a fault recorded a step only writes ST_FAULTED, the fault fields stay, and the
operations that do not load or reset act as they do without one. -/
def Obligations.AfterFault : Prop :=
  ∀ s : State, s.faultValid = true →
    (s.execState = .running → step s = .next { s with status := .faulted }) ∧
    ∀ (o : HostOp) (t : State), (∀ c, o ≠ .reset c) → (∀ b, o ≠ .loadProgram b) → invoke o s = .next t →
      t.faultValid = true ∧ t.faultCode = s.faultCode ∧ t.faultPc = s.faultPc ∧ t.faultInfo = s.faultInfo ∧
      (o ≠ .step → invoke o { s with faultValid := false } = .next { t with faultValid := false })

/-- 10_state R29, R31, R33, R36, R37, R38, 60_exceptions R285, 46_host_operations R250, R259: every output port, with
the numbers of the enumerations, and the linear order of the snapshot. -/
def Obligations.OutputsShowState : Prop :=
  ([KwState.idle, .press, .release].map (fun k => (kwStateCode k).toNat) = [0, 1, 2]) ∧
  ∀ s : State, s.outputs.fb.length = 2048 ∧
    (∀ x y : Nat, x < 64 → y < 32 → s.outputs.fb[y * 64 + x]? = some (cellAt s.fb x y)) ∧
    s.outputs.dirty = s.dirty ∧ s.outputs.ir = s.ir ∧ s.outputs.DT = s.DT ∧ s.outputs.ST = s.ST ∧
    (s.outputs.soundOn = true ↔ s.ST ≠ 0) ∧ (s.outputs.awaitingKey = true ↔ s.kwState ≠ .idle) ∧
    (s.outputs.execState.toNat = match s.execState with
      | .running => 0 | .paused => 1 | .quit => 2) ∧
    (s.outputs.status.toNat = match s.status with
      | .ok => 0 | .unimplemented => 1 | .fault => 2 | .suppressed => 3 | .faulted => 4) ∧
    s.outputs.faultValid = s.faultValid ∧
    (s.outputs.faultCode.toNat = match s.faultCode with
      | .none => 0 | .fetchRange => 1 | .stackOverflow => 2 | .stackUnderflow => 3 | .memRange => 4
      | .keyRange => 5 | .unimplementedOpcode => 6) ∧
    s.outputs.faultPc = s.faultPc ∧ s.outputs.faultInfo = s.faultInfo

/-! ### Invariants -/

/-- The machine after power-on reset meets every invariant, for every legal configuration. -/
def Obligations.PowerOnMeetsMachineInv : Prop :=
  MachineInv State.reset ∧ ∀ c : Config, c.wellFormed = true → MachineInv (State.powerOn c)

/-- Every step keeps the canonical memory, the configuration, the shape of the fault record, the ranges of `pc` and
of the return addresses, and the FX0A under a key wait. -/
def Obligations.StepKeepsMachineInv : Prop :=
  ∀ s t : State, MachineInv s → step s = .next t → MachineInv t

/-- Every operation of the host keeps them too. -/
def Obligations.HostOpKeepsMachineInv : Prop :=
  ∀ (o : HostOp) (s t : State), MachineInv s → o.legal = true → invoke o s = .next t → MachineInv t

/-- So every state that any schedule of legal operations reaches meets them. -/
def Obligations.ReachableMeetsMachineInv : Prop := ∀ s : State, Reachable s → MachineInv s

/-- 45_keypad_timers R232: whatever operation leaves a wait in progress, the one that starts it included, left `pc` and
all of memory as they were, so the word at `pc` is one and the same FX0A from the start of the wait to its end. -/
def Obligations.WaitHoldsInstruction : Prop :=
  ∀ (o : HostOp) (s t : State), WaitInv s → invoke o s = .next t → t.kwState ≠ .idle →
    t.pc = s.pc ∧ MemSame s t ∧ t.fetchWord = s.fetchWord ∧ ∃ x : Nibble, t.fetchWord = encode (.ldVxK x)
end

