-- ==== Sys2Proof/Laws/Decode.lean ====
section
/-! SUPPORT. The fields of an encoded word, and what the decoder can answer. -/

namespace Sys2Proof

theorem extract_above {n m : Nat} (u : BitVec n) (b : BitVec m) (k l : Nat) :
    (u ++ b).extractLsb' (m + k) l = u.extractLsb' k l := by
  apply BitVec.eq_of_getLsbD_eq
  intro i hi
  simp only [BitVec.getLsbD_extractLsb', BitVec.getLsbD_append, hi, decide_true, Bool.true_and]
  rw [if_neg (by omega)]
  congr 1
  omega

theorem extract_below {n m : Nat} (u : BitVec n) (b : BitVec m) (k l : Nat) (h : k + l ≤ m) :
    (u ++ b).extractLsb' k l = b.extractLsb' k l := by
  apply BitVec.eq_of_getLsbD_eq
  intro i hi
  simp only [BitVec.getLsbD_extractLsb', BitVec.getLsbD_append, hi, decide_true, Bool.true_and]
  rw [if_pos (by omega)]

theorem extract_all {m : Nat} (b : BitVec m) : b.extractLsb' 0 m = b := by
  apply BitVec.eq_of_getLsbD_eq
  intro i hi
  simp [hi]

/-! ### The fields of each format (30_encoding R92) -/

theorem fields_NNN (a : Nibble) (nnn : Addr) : fieldOP (a ++ nnn) = a ∧ fieldNNN (a ++ nnn) = nnn :=
  ⟨(extract_above a nnn 0 4).trans (extract_all a), (extract_below a nnn 0 12 (by omega)).trans (extract_all nnn)⟩

theorem fields_XNN (a x : Nibble) (nn : Byte) :
    fieldOP (a ++ x ++ nn) = a ∧ fieldX (a ++ x ++ nn) = x ∧ fieldNN (a ++ x ++ nn) = nn :=
  ⟨(extract_above (a ++ x) nn 4 4).trans ((extract_above a x 0 4).trans (extract_all a)),
    (extract_above (a ++ x) nn 0 4).trans ((extract_below a x 0 4 (by omega)).trans (extract_all x)),
    (extract_below (a ++ x) nn 0 8 (by omega)).trans (extract_all nn)⟩

theorem fields_XYN (a x y n : Nibble) :
    fieldOP (a ++ x ++ y ++ n) = a ∧ fieldX (a ++ x ++ y ++ n) = x ∧ fieldY (a ++ x ++ y ++ n) = y ∧
      fieldN (a ++ x ++ y ++ n) = n :=
  ⟨(extract_above (a ++ x ++ y) n 8 4).trans ((extract_above (a ++ x) y 4 4).trans
      ((extract_above a x 0 4).trans (extract_all a))),
    (extract_above (a ++ x ++ y) n 4 4).trans ((extract_above (a ++ x) y 0 4).trans
      ((extract_below a x 0 4 (by omega)).trans (extract_all x))),
    (extract_above (a ++ x ++ y) n 0 4).trans ((extract_below (a ++ x) y 0 4 (by omega)).trans (extract_all y)),
    (extract_below (a ++ x ++ y) n 0 4 (by omega)).trans (extract_all n)⟩

/-! ### The decoder's answers -/

/-- The opcode the decoder rejects is the one it was given. -/
theorem decode_unimplemented {op w : Word} (h : decode op = .unimplemented w) : w = op := by
  unfold decode at h
  split at h <;> first
    | (unfold decode0 at h; split at h <;> first | exact absurd h (by simp) | (split at h <;> simp_all))
    | (unfold decode8 at h; split at h <;> simp_all)
    | (unfold decodeE at h; split at h <;> simp_all)
    | (unfold decodeF at h; split at h <;> simp_all)
    | (split at h <;> simp_all)
    | simp_all

end Sys2Proof
end

