-- ==== Sys2Proof/Laws/Memory.lean ====
section
/-! SUPPORT. The laws of the RAM: a read after a write, and the canonical form kept. -/

namespace Sys2Proof.Machine

theorem Memory.read_append_cells (c : Config) (a : Nat) (v : Byte) (m : List Host.Cell) (b : Nat)
    (h : ∀ d ∈ m, d.1 ≠ a) :
    Memory.read c (Memory.cells c a v ++ m) b = if b = a then v else Memory.read c m b := by
  have absent : Memory.read c m a = Memory.background c a := by
    clear b
    induction m with
    | nil => rfl
    | cons d m ih =>
      have hd := h d (by simp)
      simp only [Memory.read, if_neg hd]
      exact ih (fun e he => h e (by simp [he]))
  unfold Memory.cells
  by_cases hv : v = Memory.background c a
  · rw [if_pos hv]
    by_cases hb : b = a
    · subst hb; simp [absent, hv]
    · simp [hb]
  · rw [if_neg hv]
    by_cases hb : b = a
    · subst hb; simp [Memory.read]
    · have : ¬ a = b := fun e => hb e.symm
      simp [Memory.read, hb, this]

theorem Memory.read_filter_ne (c : Config) (a b : Nat) (m : List Host.Cell) (h : b ≠ a) :
    Memory.read c (m.filter (fun d => decide (d.1 ≠ a))) b = Memory.read c m b := by
  induction m with
  | nil => rfl
  | cons d m ih =>
    by_cases hd : d.1 = a
    · have : ¬ d.1 = b := by omega
      simp [hd, Memory.read, show ¬ a = b by omega]
      simpa using ih
    · simp only [List.filter, hd, ne_eq, not_false_eq_true, decide_true, Memory.read]
      split
      · rfl
      · simpa using ih

/-- A read after a write: the byte written at its address, every other byte as before. -/
theorem Memory.read_write (c : Config) (m : List Host.Cell) (a b : Nat) (v : Byte) :
    Memory.read c (Memory.write c a v m) b = if b = a then v else Memory.read c m b := by
  induction m with
  | nil =>
    have := Memory.read_append_cells c a v [] b (by simp)
    rwa [List.append_nil] at this
  | cons d m ih =>
    unfold Memory.write
    by_cases hd : d.1 < a
    · rw [if_pos hd]
      simp only [Memory.read, ih]
      by_cases hb : b = a
      · have : ¬ d.1 = b := by omega
        simp [hb, show ¬ d.1 = a by omega]
      · simp [hb]
    · rw [if_neg hd, Memory.read_append_cells _ _ _ _ _ (by simp)]
      by_cases hb : b = a
      · simp [hb]
      · rw [if_neg hb, if_neg hb, Memory.read_filter_ne _ _ _ _ hb]

/-- A read after a run of bytes was written: the run's bytes where it lies, every other byte as before. -/
theorem Memory.read_writeList (c : Config) (vs : List Byte) (a b : Nat) (m : List Host.Cell) :
    Memory.read c (Memory.writeList c a vs m) b =
      if a ≤ b ∧ b < a + vs.length then vs.getD (b - a) 0#8 else Memory.read c m b := by
  induction vs generalizing a m with
  | nil => simp [Memory.writeList, show ¬ (a ≤ b ∧ b < a) by omega]
  | cons v vs ih =>
    simp only [Memory.writeList, ih, Memory.read_write, List.length_cons]
    by_cases h1 : a + 1 ≤ b ∧ b < a + 1 + vs.length
    · have h2 : b - a = (b - (a + 1)) + 1 := by omega
      rw [if_pos h1, if_pos (by omega), h2]
      simp
    · rw [if_neg h1]
      by_cases hb : b = a
      · subst hb; simp
      · rw [if_neg hb, if_neg (by omega)]

theorem Memory.mem_cells {c : Config} {a : Nat} {v : Byte} {d : Host.Cell} (h : d ∈ Memory.cells c a v) :
    d = (a, v) ∧ v ≠ Memory.background c a := by
  unfold Memory.cells at h
  split at h
  · simp at h
  · exact ⟨by simpa using h, ‹_›⟩

theorem Memory.mem_write {c : Config} {a : Nat} {v : Byte} {m : List Host.Cell} {d : Host.Cell}
    (h : d ∈ Memory.write c a v m) : (d = (a, v) ∧ v ≠ Memory.background c a) ∨ d ∈ m := by
  induction m with
  | nil => exact .inl (Memory.mem_cells h)
  | cons e m ih =>
    unfold Memory.write at h
    split at h
    · rcases List.mem_cons.1 h with rfl | h
      · exact .inr (by simp)
      · exact (ih h).imp id (fun h => by simp [h])
    · rcases List.mem_append.1 h with h | h
      · exact .inl (Memory.mem_cells h)
      · exact .inr (List.mem_filter.1 h).1

/-- A write inside the RAM keeps the canonical form. -/
theorem Memory.write_wf {c : Config} {a : Nat} {v : Byte} {m : List Host.Cell} (hm : Memory.wf c m)
    (ha : a < memSize) : Memory.wf c (Memory.write c a v m) := by
  obtain ⟨hs, hb⟩ := hm
  refine ⟨?_, fun d hd => ?_⟩
  · induction m with
    | nil =>
      unfold Memory.write Memory.cells
      split <;> simp
    | cons e m ih =>
      have hs' := List.pairwise_cons.1 hs
      unfold Memory.write
      split
      · rename_i he
        refine List.pairwise_cons.2 ⟨fun d hd => ?_, ih hs'.2 (fun d hd => hb d (by simp [hd]))⟩
        rcases Memory.mem_write hd with ⟨rfl, -⟩ | hd
        · exact he
        · exact hs'.1 d hd
      · rename_i he
        refine List.pairwise_append.2 ⟨?_, hs.filter _, fun d hd f hf => ?_⟩
        · unfold Memory.cells; split <;> simp
        · obtain ⟨rfl, -⟩ := Memory.mem_cells hd
          obtain ⟨hf, hne⟩ := List.mem_filter.1 hf
          have hne : f.1 ≠ a := by simpa using hne
          rcases List.mem_cons.1 hf with rfl | hf
          · show a < f.1; omega
          · have := hs'.1 f hf
            show a < f.1; omega
  · rcases Memory.mem_write hd with ⟨rfl, hv⟩ | hd
    · exact ⟨ha, hv⟩
    · exact hb d hd

/-- A run of bytes written inside the RAM keeps the canonical form. -/
theorem Memory.writeList_wf {c : Config} {vs : List Byte} {a : Nat} {m : List Host.Cell} (hm : Memory.wf c m)
    (ha : vs = [] ∨ a + vs.length ≤ memSize) : Memory.wf c (Memory.writeList c a vs m) := by
  induction vs generalizing a m with
  | nil => exact hm
  | cons v vs ih =>
    have ha : a + (vs.length + 1) ≤ memSize := by simpa using ha
    exact ih (Memory.write_wf hm (by omega)) (.inr (by omega))

/-- The memory of reset is canonical. -/
theorem Memory.nil_wf (c : Config) : Memory.wf c [] := ⟨.nil, by simp⟩

end Sys2Proof.Machine
end

