-- ==== Sys2Proof/Laws/State.lean ====
section
/-! SUPPORT. What each update of the state does to each field: one lemma per field per update. -/

namespace Sys2Proof.Machine

/-! ### `State.setReg` -/

@[simp] theorem State.setReg_V (s : State) (x : Nibble) (v : Byte) : (s.setReg x v).V = s.V.set x.toNat v x.isLt := rfl
@[simp] theorem State.setReg_I (s : State) (x : Nibble) (v : Byte) : (s.setReg x v).I = s.I := rfl
@[simp] theorem State.setReg_pc (s : State) (x : Nibble) (v : Byte) : (s.setReg x v).pc = s.pc := rfl
@[simp] theorem State.setReg_stack (s : State) (x : Nibble) (v : Byte) : (s.setReg x v).stack = s.stack := rfl
@[simp] theorem State.setReg_sp (s : State) (x : Nibble) (v : Byte) : (s.setReg x v).sp = s.sp := rfl
@[simp] theorem State.setReg_DT (s : State) (x : Nibble) (v : Byte) : (s.setReg x v).DT = s.DT := rfl
@[simp] theorem State.setReg_ST (s : State) (x : Nibble) (v : Byte) : (s.setReg x v).ST = s.ST := rfl
@[simp] theorem State.setReg_mem (s : State) (x : Nibble) (v : Byte) : (s.setReg x v).mem = s.mem := rfl
@[simp] theorem State.setReg_fb (s : State) (x : Nibble) (v : Byte) : (s.setReg x v).fb = s.fb := rfl
@[simp] theorem State.setReg_keypad (s : State) (x : Nibble) (v : Byte) : (s.setReg x v).keypad = s.keypad := rfl
@[simp] theorem State.setReg_execState (s : State) (x : Nibble) (v : Byte) : (s.setReg x v).execState = s.execState := rfl
@[simp] theorem State.setReg_ir (s : State) (x : Nibble) (v : Byte) : (s.setReg x v).ir = s.ir := rfl
@[simp] theorem State.setReg_dirty (s : State) (x : Nibble) (v : Byte) : (s.setReg x v).dirty = s.dirty := rfl
@[simp] theorem State.setReg_kwState (s : State) (x : Nibble) (v : Byte) : (s.setReg x v).kwState = s.kwState := rfl
@[simp] theorem State.setReg_kwIdx (s : State) (x : Nibble) (v : Byte) : (s.setReg x v).kwIdx = s.kwIdx := rfl
@[simp] theorem State.setReg_faultValid (s : State) (x : Nibble) (v : Byte) : (s.setReg x v).faultValid = s.faultValid := rfl
@[simp] theorem State.setReg_faultCode (s : State) (x : Nibble) (v : Byte) : (s.setReg x v).faultCode = s.faultCode := rfl
@[simp] theorem State.setReg_faultPc (s : State) (x : Nibble) (v : Byte) : (s.setReg x v).faultPc = s.faultPc := rfl
@[simp] theorem State.setReg_faultInfo (s : State) (x : Nibble) (v : Byte) : (s.setReg x v).faultInfo = s.faultInfo := rfl
@[simp] theorem State.setReg_status (s : State) (x : Nibble) (v : Byte) : (s.setReg x v).status = s.status := rfl
@[simp] theorem State.setReg_cfg (s : State) (x : Nibble) (v : Byte) : (s.setReg x v).cfg = s.cfg := rfl
@[simp] theorem State.setReg_draws (s : State) (x : Nibble) (v : Byte) : (s.setReg x v).draws = s.draws := rfl

/-! ### `State.setRegFlag` -/

@[simp] theorem State.setRegFlag_V (s : State) (x : Nibble) (v f : Byte) : (s.setRegFlag x v f).V = (s.V.set x.toNat v x.isLt).set 15 f (by decide) := rfl
@[simp] theorem State.setRegFlag_I (s : State) (x : Nibble) (v f : Byte) : (s.setRegFlag x v f).I = s.I := rfl
@[simp] theorem State.setRegFlag_pc (s : State) (x : Nibble) (v f : Byte) : (s.setRegFlag x v f).pc = s.pc := rfl
@[simp] theorem State.setRegFlag_stack (s : State) (x : Nibble) (v f : Byte) : (s.setRegFlag x v f).stack = s.stack := rfl
@[simp] theorem State.setRegFlag_sp (s : State) (x : Nibble) (v f : Byte) : (s.setRegFlag x v f).sp = s.sp := rfl
@[simp] theorem State.setRegFlag_DT (s : State) (x : Nibble) (v f : Byte) : (s.setRegFlag x v f).DT = s.DT := rfl
@[simp] theorem State.setRegFlag_ST (s : State) (x : Nibble) (v f : Byte) : (s.setRegFlag x v f).ST = s.ST := rfl
@[simp] theorem State.setRegFlag_mem (s : State) (x : Nibble) (v f : Byte) : (s.setRegFlag x v f).mem = s.mem := rfl
@[simp] theorem State.setRegFlag_fb (s : State) (x : Nibble) (v f : Byte) : (s.setRegFlag x v f).fb = s.fb := rfl
@[simp] theorem State.setRegFlag_keypad (s : State) (x : Nibble) (v f : Byte) : (s.setRegFlag x v f).keypad = s.keypad := rfl
@[simp] theorem State.setRegFlag_execState (s : State) (x : Nibble) (v f : Byte) : (s.setRegFlag x v f).execState = s.execState := rfl
@[simp] theorem State.setRegFlag_ir (s : State) (x : Nibble) (v f : Byte) : (s.setRegFlag x v f).ir = s.ir := rfl
@[simp] theorem State.setRegFlag_dirty (s : State) (x : Nibble) (v f : Byte) : (s.setRegFlag x v f).dirty = s.dirty := rfl
@[simp] theorem State.setRegFlag_kwState (s : State) (x : Nibble) (v f : Byte) : (s.setRegFlag x v f).kwState = s.kwState := rfl
@[simp] theorem State.setRegFlag_kwIdx (s : State) (x : Nibble) (v f : Byte) : (s.setRegFlag x v f).kwIdx = s.kwIdx := rfl
@[simp] theorem State.setRegFlag_faultValid (s : State) (x : Nibble) (v f : Byte) : (s.setRegFlag x v f).faultValid = s.faultValid := rfl
@[simp] theorem State.setRegFlag_faultCode (s : State) (x : Nibble) (v f : Byte) : (s.setRegFlag x v f).faultCode = s.faultCode := rfl
@[simp] theorem State.setRegFlag_faultPc (s : State) (x : Nibble) (v f : Byte) : (s.setRegFlag x v f).faultPc = s.faultPc := rfl
@[simp] theorem State.setRegFlag_faultInfo (s : State) (x : Nibble) (v f : Byte) : (s.setRegFlag x v f).faultInfo = s.faultInfo := rfl
@[simp] theorem State.setRegFlag_status (s : State) (x : Nibble) (v f : Byte) : (s.setRegFlag x v f).status = s.status := rfl
@[simp] theorem State.setRegFlag_cfg (s : State) (x : Nibble) (v f : Byte) : (s.setRegFlag x v f).cfg = s.cfg := rfl
@[simp] theorem State.setRegFlag_draws (s : State) (x : Nibble) (v f : Byte) : (s.setRegFlag x v f).draws = s.draws := rfl

/-! ### `State.setI` -/

@[simp] theorem State.setI_V (s : State) (v : Word) : (s.setI v).V = s.V := rfl
@[simp] theorem State.setI_I (s : State) (v : Word) : (s.setI v).I = v := rfl
@[simp] theorem State.setI_pc (s : State) (v : Word) : (s.setI v).pc = s.pc := rfl
@[simp] theorem State.setI_stack (s : State) (v : Word) : (s.setI v).stack = s.stack := rfl
@[simp] theorem State.setI_sp (s : State) (v : Word) : (s.setI v).sp = s.sp := rfl
@[simp] theorem State.setI_DT (s : State) (v : Word) : (s.setI v).DT = s.DT := rfl
@[simp] theorem State.setI_ST (s : State) (v : Word) : (s.setI v).ST = s.ST := rfl
@[simp] theorem State.setI_mem (s : State) (v : Word) : (s.setI v).mem = s.mem := rfl
@[simp] theorem State.setI_fb (s : State) (v : Word) : (s.setI v).fb = s.fb := rfl
@[simp] theorem State.setI_keypad (s : State) (v : Word) : (s.setI v).keypad = s.keypad := rfl
@[simp] theorem State.setI_execState (s : State) (v : Word) : (s.setI v).execState = s.execState := rfl
@[simp] theorem State.setI_ir (s : State) (v : Word) : (s.setI v).ir = s.ir := rfl
@[simp] theorem State.setI_dirty (s : State) (v : Word) : (s.setI v).dirty = s.dirty := rfl
@[simp] theorem State.setI_kwState (s : State) (v : Word) : (s.setI v).kwState = s.kwState := rfl
@[simp] theorem State.setI_kwIdx (s : State) (v : Word) : (s.setI v).kwIdx = s.kwIdx := rfl
@[simp] theorem State.setI_faultValid (s : State) (v : Word) : (s.setI v).faultValid = s.faultValid := rfl
@[simp] theorem State.setI_faultCode (s : State) (v : Word) : (s.setI v).faultCode = s.faultCode := rfl
@[simp] theorem State.setI_faultPc (s : State) (v : Word) : (s.setI v).faultPc = s.faultPc := rfl
@[simp] theorem State.setI_faultInfo (s : State) (v : Word) : (s.setI v).faultInfo = s.faultInfo := rfl
@[simp] theorem State.setI_status (s : State) (v : Word) : (s.setI v).status = s.status := rfl
@[simp] theorem State.setI_cfg (s : State) (v : Word) : (s.setI v).cfg = s.cfg := rfl
@[simp] theorem State.setI_draws (s : State) (v : Word) : (s.setI v).draws = s.draws := rfl

/-! ### `State.setPc` -/

@[simp] theorem State.setPc_V (s : State) (v : Word) : (s.setPc v).V = s.V := rfl
@[simp] theorem State.setPc_I (s : State) (v : Word) : (s.setPc v).I = s.I := rfl
@[simp] theorem State.setPc_pc (s : State) (v : Word) : (s.setPc v).pc = v := rfl
@[simp] theorem State.setPc_stack (s : State) (v : Word) : (s.setPc v).stack = s.stack := rfl
@[simp] theorem State.setPc_sp (s : State) (v : Word) : (s.setPc v).sp = s.sp := rfl
@[simp] theorem State.setPc_DT (s : State) (v : Word) : (s.setPc v).DT = s.DT := rfl
@[simp] theorem State.setPc_ST (s : State) (v : Word) : (s.setPc v).ST = s.ST := rfl
@[simp] theorem State.setPc_mem (s : State) (v : Word) : (s.setPc v).mem = s.mem := rfl
@[simp] theorem State.setPc_fb (s : State) (v : Word) : (s.setPc v).fb = s.fb := rfl
@[simp] theorem State.setPc_keypad (s : State) (v : Word) : (s.setPc v).keypad = s.keypad := rfl
@[simp] theorem State.setPc_execState (s : State) (v : Word) : (s.setPc v).execState = s.execState := rfl
@[simp] theorem State.setPc_ir (s : State) (v : Word) : (s.setPc v).ir = s.ir := rfl
@[simp] theorem State.setPc_dirty (s : State) (v : Word) : (s.setPc v).dirty = s.dirty := rfl
@[simp] theorem State.setPc_kwState (s : State) (v : Word) : (s.setPc v).kwState = s.kwState := rfl
@[simp] theorem State.setPc_kwIdx (s : State) (v : Word) : (s.setPc v).kwIdx = s.kwIdx := rfl
@[simp] theorem State.setPc_faultValid (s : State) (v : Word) : (s.setPc v).faultValid = s.faultValid := rfl
@[simp] theorem State.setPc_faultCode (s : State) (v : Word) : (s.setPc v).faultCode = s.faultCode := rfl
@[simp] theorem State.setPc_faultPc (s : State) (v : Word) : (s.setPc v).faultPc = s.faultPc := rfl
@[simp] theorem State.setPc_faultInfo (s : State) (v : Word) : (s.setPc v).faultInfo = s.faultInfo := rfl
@[simp] theorem State.setPc_status (s : State) (v : Word) : (s.setPc v).status = s.status := rfl
@[simp] theorem State.setPc_cfg (s : State) (v : Word) : (s.setPc v).cfg = s.cfg := rfl
@[simp] theorem State.setPc_draws (s : State) (v : Word) : (s.setPc v).draws = s.draws := rfl

/-! ### `State.advance` -/

@[simp] theorem State.advance_V (s : State) : s.advance.V = s.V := rfl
@[simp] theorem State.advance_I (s : State) : s.advance.I = s.I := rfl
@[simp] theorem State.advance_pc (s : State) : s.advance.pc = s.pc + 2#16 := rfl
@[simp] theorem State.advance_stack (s : State) : s.advance.stack = s.stack := rfl
@[simp] theorem State.advance_sp (s : State) : s.advance.sp = s.sp := rfl
@[simp] theorem State.advance_DT (s : State) : s.advance.DT = s.DT := rfl
@[simp] theorem State.advance_ST (s : State) : s.advance.ST = s.ST := rfl
@[simp] theorem State.advance_mem (s : State) : s.advance.mem = s.mem := rfl
@[simp] theorem State.advance_fb (s : State) : s.advance.fb = s.fb := rfl
@[simp] theorem State.advance_keypad (s : State) : s.advance.keypad = s.keypad := rfl
@[simp] theorem State.advance_execState (s : State) : s.advance.execState = s.execState := rfl
@[simp] theorem State.advance_ir (s : State) : s.advance.ir = s.ir := rfl
@[simp] theorem State.advance_dirty (s : State) : s.advance.dirty = s.dirty := rfl
@[simp] theorem State.advance_kwState (s : State) : s.advance.kwState = s.kwState := rfl
@[simp] theorem State.advance_kwIdx (s : State) : s.advance.kwIdx = s.kwIdx := rfl
@[simp] theorem State.advance_faultValid (s : State) : s.advance.faultValid = s.faultValid := rfl
@[simp] theorem State.advance_faultCode (s : State) : s.advance.faultCode = s.faultCode := rfl
@[simp] theorem State.advance_faultPc (s : State) : s.advance.faultPc = s.faultPc := rfl
@[simp] theorem State.advance_faultInfo (s : State) : s.advance.faultInfo = s.faultInfo := rfl
@[simp] theorem State.advance_status (s : State) : s.advance.status = s.status := rfl
@[simp] theorem State.advance_cfg (s : State) : s.advance.cfg = s.cfg := rfl
@[simp] theorem State.advance_draws (s : State) : s.advance.draws = s.draws := rfl

/-! ### `State.setDT` -/

@[simp] theorem State.setDT_V (s : State) (v : Byte) : (s.setDT v).V = s.V := rfl
@[simp] theorem State.setDT_I (s : State) (v : Byte) : (s.setDT v).I = s.I := rfl
@[simp] theorem State.setDT_pc (s : State) (v : Byte) : (s.setDT v).pc = s.pc := rfl
@[simp] theorem State.setDT_stack (s : State) (v : Byte) : (s.setDT v).stack = s.stack := rfl
@[simp] theorem State.setDT_sp (s : State) (v : Byte) : (s.setDT v).sp = s.sp := rfl
@[simp] theorem State.setDT_DT (s : State) (v : Byte) : (s.setDT v).DT = v := rfl
@[simp] theorem State.setDT_ST (s : State) (v : Byte) : (s.setDT v).ST = s.ST := rfl
@[simp] theorem State.setDT_mem (s : State) (v : Byte) : (s.setDT v).mem = s.mem := rfl
@[simp] theorem State.setDT_fb (s : State) (v : Byte) : (s.setDT v).fb = s.fb := rfl
@[simp] theorem State.setDT_keypad (s : State) (v : Byte) : (s.setDT v).keypad = s.keypad := rfl
@[simp] theorem State.setDT_execState (s : State) (v : Byte) : (s.setDT v).execState = s.execState := rfl
@[simp] theorem State.setDT_ir (s : State) (v : Byte) : (s.setDT v).ir = s.ir := rfl
@[simp] theorem State.setDT_dirty (s : State) (v : Byte) : (s.setDT v).dirty = s.dirty := rfl
@[simp] theorem State.setDT_kwState (s : State) (v : Byte) : (s.setDT v).kwState = s.kwState := rfl
@[simp] theorem State.setDT_kwIdx (s : State) (v : Byte) : (s.setDT v).kwIdx = s.kwIdx := rfl
@[simp] theorem State.setDT_faultValid (s : State) (v : Byte) : (s.setDT v).faultValid = s.faultValid := rfl
@[simp] theorem State.setDT_faultCode (s : State) (v : Byte) : (s.setDT v).faultCode = s.faultCode := rfl
@[simp] theorem State.setDT_faultPc (s : State) (v : Byte) : (s.setDT v).faultPc = s.faultPc := rfl
@[simp] theorem State.setDT_faultInfo (s : State) (v : Byte) : (s.setDT v).faultInfo = s.faultInfo := rfl
@[simp] theorem State.setDT_status (s : State) (v : Byte) : (s.setDT v).status = s.status := rfl
@[simp] theorem State.setDT_cfg (s : State) (v : Byte) : (s.setDT v).cfg = s.cfg := rfl
@[simp] theorem State.setDT_draws (s : State) (v : Byte) : (s.setDT v).draws = s.draws := rfl

/-! ### `State.setST` -/

@[simp] theorem State.setST_V (s : State) (v : Byte) : (s.setST v).V = s.V := rfl
@[simp] theorem State.setST_I (s : State) (v : Byte) : (s.setST v).I = s.I := rfl
@[simp] theorem State.setST_pc (s : State) (v : Byte) : (s.setST v).pc = s.pc := rfl
@[simp] theorem State.setST_stack (s : State) (v : Byte) : (s.setST v).stack = s.stack := rfl
@[simp] theorem State.setST_sp (s : State) (v : Byte) : (s.setST v).sp = s.sp := rfl
@[simp] theorem State.setST_DT (s : State) (v : Byte) : (s.setST v).DT = s.DT := rfl
@[simp] theorem State.setST_ST (s : State) (v : Byte) : (s.setST v).ST = v := rfl
@[simp] theorem State.setST_mem (s : State) (v : Byte) : (s.setST v).mem = s.mem := rfl
@[simp] theorem State.setST_fb (s : State) (v : Byte) : (s.setST v).fb = s.fb := rfl
@[simp] theorem State.setST_keypad (s : State) (v : Byte) : (s.setST v).keypad = s.keypad := rfl
@[simp] theorem State.setST_execState (s : State) (v : Byte) : (s.setST v).execState = s.execState := rfl
@[simp] theorem State.setST_ir (s : State) (v : Byte) : (s.setST v).ir = s.ir := rfl
@[simp] theorem State.setST_dirty (s : State) (v : Byte) : (s.setST v).dirty = s.dirty := rfl
@[simp] theorem State.setST_kwState (s : State) (v : Byte) : (s.setST v).kwState = s.kwState := rfl
@[simp] theorem State.setST_kwIdx (s : State) (v : Byte) : (s.setST v).kwIdx = s.kwIdx := rfl
@[simp] theorem State.setST_faultValid (s : State) (v : Byte) : (s.setST v).faultValid = s.faultValid := rfl
@[simp] theorem State.setST_faultCode (s : State) (v : Byte) : (s.setST v).faultCode = s.faultCode := rfl
@[simp] theorem State.setST_faultPc (s : State) (v : Byte) : (s.setST v).faultPc = s.faultPc := rfl
@[simp] theorem State.setST_faultInfo (s : State) (v : Byte) : (s.setST v).faultInfo = s.faultInfo := rfl
@[simp] theorem State.setST_status (s : State) (v : Byte) : (s.setST v).status = s.status := rfl
@[simp] theorem State.setST_cfg (s : State) (v : Byte) : (s.setST v).cfg = s.cfg := rfl
@[simp] theorem State.setST_draws (s : State) (v : Byte) : (s.setST v).draws = s.draws := rfl

/-! ### `State.setStatus` -/

@[simp] theorem State.setStatus_V (s : State) (v : StepStatus) : (s.setStatus v).V = s.V := rfl
@[simp] theorem State.setStatus_I (s : State) (v : StepStatus) : (s.setStatus v).I = s.I := rfl
@[simp] theorem State.setStatus_pc (s : State) (v : StepStatus) : (s.setStatus v).pc = s.pc := rfl
@[simp] theorem State.setStatus_stack (s : State) (v : StepStatus) : (s.setStatus v).stack = s.stack := rfl
@[simp] theorem State.setStatus_sp (s : State) (v : StepStatus) : (s.setStatus v).sp = s.sp := rfl
@[simp] theorem State.setStatus_DT (s : State) (v : StepStatus) : (s.setStatus v).DT = s.DT := rfl
@[simp] theorem State.setStatus_ST (s : State) (v : StepStatus) : (s.setStatus v).ST = s.ST := rfl
@[simp] theorem State.setStatus_mem (s : State) (v : StepStatus) : (s.setStatus v).mem = s.mem := rfl
@[simp] theorem State.setStatus_fb (s : State) (v : StepStatus) : (s.setStatus v).fb = s.fb := rfl
@[simp] theorem State.setStatus_keypad (s : State) (v : StepStatus) : (s.setStatus v).keypad = s.keypad := rfl
@[simp] theorem State.setStatus_execState (s : State) (v : StepStatus) : (s.setStatus v).execState = s.execState := rfl
@[simp] theorem State.setStatus_ir (s : State) (v : StepStatus) : (s.setStatus v).ir = s.ir := rfl
@[simp] theorem State.setStatus_dirty (s : State) (v : StepStatus) : (s.setStatus v).dirty = s.dirty := rfl
@[simp] theorem State.setStatus_kwState (s : State) (v : StepStatus) : (s.setStatus v).kwState = s.kwState := rfl
@[simp] theorem State.setStatus_kwIdx (s : State) (v : StepStatus) : (s.setStatus v).kwIdx = s.kwIdx := rfl
@[simp] theorem State.setStatus_faultValid (s : State) (v : StepStatus) : (s.setStatus v).faultValid = s.faultValid := rfl
@[simp] theorem State.setStatus_faultCode (s : State) (v : StepStatus) : (s.setStatus v).faultCode = s.faultCode := rfl
@[simp] theorem State.setStatus_faultPc (s : State) (v : StepStatus) : (s.setStatus v).faultPc = s.faultPc := rfl
@[simp] theorem State.setStatus_faultInfo (s : State) (v : StepStatus) : (s.setStatus v).faultInfo = s.faultInfo := rfl
@[simp] theorem State.setStatus_status (s : State) (v : StepStatus) : (s.setStatus v).status = v := rfl
@[simp] theorem State.setStatus_cfg (s : State) (v : StepStatus) : (s.setStatus v).cfg = s.cfg := rfl
@[simp] theorem State.setStatus_draws (s : State) (v : StepStatus) : (s.setStatus v).draws = s.draws := rfl

/-! ### `State.latchIr` -/

@[simp] theorem State.latchIr_V (s : State) (op : Word) : (s.latchIr op).V = s.V := rfl
@[simp] theorem State.latchIr_I (s : State) (op : Word) : (s.latchIr op).I = s.I := rfl
@[simp] theorem State.latchIr_pc (s : State) (op : Word) : (s.latchIr op).pc = s.pc := rfl
@[simp] theorem State.latchIr_stack (s : State) (op : Word) : (s.latchIr op).stack = s.stack := rfl
@[simp] theorem State.latchIr_sp (s : State) (op : Word) : (s.latchIr op).sp = s.sp := rfl
@[simp] theorem State.latchIr_DT (s : State) (op : Word) : (s.latchIr op).DT = s.DT := rfl
@[simp] theorem State.latchIr_ST (s : State) (op : Word) : (s.latchIr op).ST = s.ST := rfl
@[simp] theorem State.latchIr_mem (s : State) (op : Word) : (s.latchIr op).mem = s.mem := rfl
@[simp] theorem State.latchIr_fb (s : State) (op : Word) : (s.latchIr op).fb = s.fb := rfl
@[simp] theorem State.latchIr_keypad (s : State) (op : Word) : (s.latchIr op).keypad = s.keypad := rfl
@[simp] theorem State.latchIr_execState (s : State) (op : Word) : (s.latchIr op).execState = s.execState := rfl
@[simp] theorem State.latchIr_ir (s : State) (op : Word) : (s.latchIr op).ir = op := rfl
@[simp] theorem State.latchIr_dirty (s : State) (op : Word) : (s.latchIr op).dirty = s.dirty := rfl
@[simp] theorem State.latchIr_kwState (s : State) (op : Word) : (s.latchIr op).kwState = s.kwState := rfl
@[simp] theorem State.latchIr_kwIdx (s : State) (op : Word) : (s.latchIr op).kwIdx = s.kwIdx := rfl
@[simp] theorem State.latchIr_faultValid (s : State) (op : Word) : (s.latchIr op).faultValid = s.faultValid := rfl
@[simp] theorem State.latchIr_faultCode (s : State) (op : Word) : (s.latchIr op).faultCode = s.faultCode := rfl
@[simp] theorem State.latchIr_faultPc (s : State) (op : Word) : (s.latchIr op).faultPc = s.faultPc := rfl
@[simp] theorem State.latchIr_faultInfo (s : State) (op : Word) : (s.latchIr op).faultInfo = s.faultInfo := rfl
@[simp] theorem State.latchIr_status (s : State) (op : Word) : (s.latchIr op).status = s.status := rfl
@[simp] theorem State.latchIr_cfg (s : State) (op : Word) : (s.latchIr op).cfg = s.cfg := rfl
@[simp] theorem State.latchIr_draws (s : State) (op : Word) : (s.latchIr op).draws = s.draws := rfl

/-! ### `State.storeBytes` -/

@[simp] theorem State.storeBytes_V (s : State) (a : Nat) (vs : List Byte) : (s.storeBytes a vs).V = s.V := rfl
@[simp] theorem State.storeBytes_I (s : State) (a : Nat) (vs : List Byte) : (s.storeBytes a vs).I = s.I := rfl
@[simp] theorem State.storeBytes_pc (s : State) (a : Nat) (vs : List Byte) : (s.storeBytes a vs).pc = s.pc := rfl
@[simp] theorem State.storeBytes_stack (s : State) (a : Nat) (vs : List Byte) : (s.storeBytes a vs).stack = s.stack := rfl
@[simp] theorem State.storeBytes_sp (s : State) (a : Nat) (vs : List Byte) : (s.storeBytes a vs).sp = s.sp := rfl
@[simp] theorem State.storeBytes_DT (s : State) (a : Nat) (vs : List Byte) : (s.storeBytes a vs).DT = s.DT := rfl
@[simp] theorem State.storeBytes_ST (s : State) (a : Nat) (vs : List Byte) : (s.storeBytes a vs).ST = s.ST := rfl
@[simp] theorem State.storeBytes_mem (s : State) (a : Nat) (vs : List Byte) : (s.storeBytes a vs).mem = Memory.writeList s.cfg a vs s.mem := rfl
@[simp] theorem State.storeBytes_fb (s : State) (a : Nat) (vs : List Byte) : (s.storeBytes a vs).fb = s.fb := rfl
@[simp] theorem State.storeBytes_keypad (s : State) (a : Nat) (vs : List Byte) : (s.storeBytes a vs).keypad = s.keypad := rfl
@[simp] theorem State.storeBytes_execState (s : State) (a : Nat) (vs : List Byte) : (s.storeBytes a vs).execState = s.execState := rfl
@[simp] theorem State.storeBytes_ir (s : State) (a : Nat) (vs : List Byte) : (s.storeBytes a vs).ir = s.ir := rfl
@[simp] theorem State.storeBytes_dirty (s : State) (a : Nat) (vs : List Byte) : (s.storeBytes a vs).dirty = s.dirty := rfl
@[simp] theorem State.storeBytes_kwState (s : State) (a : Nat) (vs : List Byte) : (s.storeBytes a vs).kwState = s.kwState := rfl
@[simp] theorem State.storeBytes_kwIdx (s : State) (a : Nat) (vs : List Byte) : (s.storeBytes a vs).kwIdx = s.kwIdx := rfl
@[simp] theorem State.storeBytes_faultValid (s : State) (a : Nat) (vs : List Byte) : (s.storeBytes a vs).faultValid = s.faultValid := rfl
@[simp] theorem State.storeBytes_faultCode (s : State) (a : Nat) (vs : List Byte) : (s.storeBytes a vs).faultCode = s.faultCode := rfl
@[simp] theorem State.storeBytes_faultPc (s : State) (a : Nat) (vs : List Byte) : (s.storeBytes a vs).faultPc = s.faultPc := rfl
@[simp] theorem State.storeBytes_faultInfo (s : State) (a : Nat) (vs : List Byte) : (s.storeBytes a vs).faultInfo = s.faultInfo := rfl
@[simp] theorem State.storeBytes_status (s : State) (a : Nat) (vs : List Byte) : (s.storeBytes a vs).status = s.status := rfl
@[simp] theorem State.storeBytes_cfg (s : State) (a : Nat) (vs : List Byte) : (s.storeBytes a vs).cfg = s.cfg := rfl
@[simp] theorem State.storeBytes_draws (s : State) (a : Nat) (vs : List Byte) : (s.storeBytes a vs).draws = s.draws := rfl

/-! ### `State.setKey` -/

@[simp] theorem State.setKey_V (s : State) (k : Nibble) (b : Bool) : (s.setKey k b).V = s.V := rfl
@[simp] theorem State.setKey_I (s : State) (k : Nibble) (b : Bool) : (s.setKey k b).I = s.I := rfl
@[simp] theorem State.setKey_pc (s : State) (k : Nibble) (b : Bool) : (s.setKey k b).pc = s.pc := rfl
@[simp] theorem State.setKey_stack (s : State) (k : Nibble) (b : Bool) : (s.setKey k b).stack = s.stack := rfl
@[simp] theorem State.setKey_sp (s : State) (k : Nibble) (b : Bool) : (s.setKey k b).sp = s.sp := rfl
@[simp] theorem State.setKey_DT (s : State) (k : Nibble) (b : Bool) : (s.setKey k b).DT = s.DT := rfl
@[simp] theorem State.setKey_ST (s : State) (k : Nibble) (b : Bool) : (s.setKey k b).ST = s.ST := rfl
@[simp] theorem State.setKey_mem (s : State) (k : Nibble) (b : Bool) : (s.setKey k b).mem = s.mem := rfl
@[simp] theorem State.setKey_fb (s : State) (k : Nibble) (b : Bool) : (s.setKey k b).fb = s.fb := rfl
@[simp] theorem State.setKey_keypad (s : State) (k : Nibble) (b : Bool) : (s.setKey k b).keypad = s.keypad.set k.toNat b k.isLt := rfl
@[simp] theorem State.setKey_execState (s : State) (k : Nibble) (b : Bool) : (s.setKey k b).execState = s.execState := rfl
@[simp] theorem State.setKey_ir (s : State) (k : Nibble) (b : Bool) : (s.setKey k b).ir = s.ir := rfl
@[simp] theorem State.setKey_dirty (s : State) (k : Nibble) (b : Bool) : (s.setKey k b).dirty = s.dirty := rfl
@[simp] theorem State.setKey_kwState (s : State) (k : Nibble) (b : Bool) : (s.setKey k b).kwState = s.kwState := rfl
@[simp] theorem State.setKey_kwIdx (s : State) (k : Nibble) (b : Bool) : (s.setKey k b).kwIdx = s.kwIdx := rfl
@[simp] theorem State.setKey_faultValid (s : State) (k : Nibble) (b : Bool) : (s.setKey k b).faultValid = s.faultValid := rfl
@[simp] theorem State.setKey_faultCode (s : State) (k : Nibble) (b : Bool) : (s.setKey k b).faultCode = s.faultCode := rfl
@[simp] theorem State.setKey_faultPc (s : State) (k : Nibble) (b : Bool) : (s.setKey k b).faultPc = s.faultPc := rfl
@[simp] theorem State.setKey_faultInfo (s : State) (k : Nibble) (b : Bool) : (s.setKey k b).faultInfo = s.faultInfo := rfl
@[simp] theorem State.setKey_status (s : State) (k : Nibble) (b : Bool) : (s.setKey k b).status = s.status := rfl
@[simp] theorem State.setKey_cfg (s : State) (k : Nibble) (b : Bool) : (s.setKey k b).cfg = s.cfg := rfl
@[simp] theorem State.setKey_draws (s : State) (k : Nibble) (b : Bool) : (s.setKey k b).draws = s.draws := rfl

/-! ### `State.setKwState` -/

@[simp] theorem State.setKwState_V (s : State) (v : KwState) : (s.setKwState v).V = s.V := rfl
@[simp] theorem State.setKwState_I (s : State) (v : KwState) : (s.setKwState v).I = s.I := rfl
@[simp] theorem State.setKwState_pc (s : State) (v : KwState) : (s.setKwState v).pc = s.pc := rfl
@[simp] theorem State.setKwState_stack (s : State) (v : KwState) : (s.setKwState v).stack = s.stack := rfl
@[simp] theorem State.setKwState_sp (s : State) (v : KwState) : (s.setKwState v).sp = s.sp := rfl
@[simp] theorem State.setKwState_DT (s : State) (v : KwState) : (s.setKwState v).DT = s.DT := rfl
@[simp] theorem State.setKwState_ST (s : State) (v : KwState) : (s.setKwState v).ST = s.ST := rfl
@[simp] theorem State.setKwState_mem (s : State) (v : KwState) : (s.setKwState v).mem = s.mem := rfl
@[simp] theorem State.setKwState_fb (s : State) (v : KwState) : (s.setKwState v).fb = s.fb := rfl
@[simp] theorem State.setKwState_keypad (s : State) (v : KwState) : (s.setKwState v).keypad = s.keypad := rfl
@[simp] theorem State.setKwState_execState (s : State) (v : KwState) : (s.setKwState v).execState = s.execState := rfl
@[simp] theorem State.setKwState_ir (s : State) (v : KwState) : (s.setKwState v).ir = s.ir := rfl
@[simp] theorem State.setKwState_dirty (s : State) (v : KwState) : (s.setKwState v).dirty = s.dirty := rfl
@[simp] theorem State.setKwState_kwState (s : State) (v : KwState) : (s.setKwState v).kwState = v := rfl
@[simp] theorem State.setKwState_kwIdx (s : State) (v : KwState) : (s.setKwState v).kwIdx = s.kwIdx := rfl
@[simp] theorem State.setKwState_faultValid (s : State) (v : KwState) : (s.setKwState v).faultValid = s.faultValid := rfl
@[simp] theorem State.setKwState_faultCode (s : State) (v : KwState) : (s.setKwState v).faultCode = s.faultCode := rfl
@[simp] theorem State.setKwState_faultPc (s : State) (v : KwState) : (s.setKwState v).faultPc = s.faultPc := rfl
@[simp] theorem State.setKwState_faultInfo (s : State) (v : KwState) : (s.setKwState v).faultInfo = s.faultInfo := rfl
@[simp] theorem State.setKwState_status (s : State) (v : KwState) : (s.setKwState v).status = s.status := rfl
@[simp] theorem State.setKwState_cfg (s : State) (v : KwState) : (s.setKwState v).cfg = s.cfg := rfl
@[simp] theorem State.setKwState_draws (s : State) (v : KwState) : (s.setKwState v).draws = s.draws := rfl

/-! ### `State.latchKey` -/

@[simp] theorem State.latchKey_V (s : State) (k : Nibble) : (s.latchKey k).V = s.V := rfl
@[simp] theorem State.latchKey_I (s : State) (k : Nibble) : (s.latchKey k).I = s.I := rfl
@[simp] theorem State.latchKey_pc (s : State) (k : Nibble) : (s.latchKey k).pc = s.pc := rfl
@[simp] theorem State.latchKey_stack (s : State) (k : Nibble) : (s.latchKey k).stack = s.stack := rfl
@[simp] theorem State.latchKey_sp (s : State) (k : Nibble) : (s.latchKey k).sp = s.sp := rfl
@[simp] theorem State.latchKey_DT (s : State) (k : Nibble) : (s.latchKey k).DT = s.DT := rfl
@[simp] theorem State.latchKey_ST (s : State) (k : Nibble) : (s.latchKey k).ST = s.ST := rfl
@[simp] theorem State.latchKey_mem (s : State) (k : Nibble) : (s.latchKey k).mem = s.mem := rfl
@[simp] theorem State.latchKey_fb (s : State) (k : Nibble) : (s.latchKey k).fb = s.fb := rfl
@[simp] theorem State.latchKey_keypad (s : State) (k : Nibble) : (s.latchKey k).keypad = s.keypad := rfl
@[simp] theorem State.latchKey_execState (s : State) (k : Nibble) : (s.latchKey k).execState = s.execState := rfl
@[simp] theorem State.latchKey_ir (s : State) (k : Nibble) : (s.latchKey k).ir = s.ir := rfl
@[simp] theorem State.latchKey_dirty (s : State) (k : Nibble) : (s.latchKey k).dirty = s.dirty := rfl
@[simp] theorem State.latchKey_kwState (s : State) (k : Nibble) : (s.latchKey k).kwState = .release := rfl
@[simp] theorem State.latchKey_kwIdx (s : State) (k : Nibble) : (s.latchKey k).kwIdx = k := rfl
@[simp] theorem State.latchKey_faultValid (s : State) (k : Nibble) : (s.latchKey k).faultValid = s.faultValid := rfl
@[simp] theorem State.latchKey_faultCode (s : State) (k : Nibble) : (s.latchKey k).faultCode = s.faultCode := rfl
@[simp] theorem State.latchKey_faultPc (s : State) (k : Nibble) : (s.latchKey k).faultPc = s.faultPc := rfl
@[simp] theorem State.latchKey_faultInfo (s : State) (k : Nibble) : (s.latchKey k).faultInfo = s.faultInfo := rfl
@[simp] theorem State.latchKey_status (s : State) (k : Nibble) : (s.latchKey k).status = s.status := rfl
@[simp] theorem State.latchKey_cfg (s : State) (k : Nibble) : (s.latchKey k).cfg = s.cfg := rfl
@[simp] theorem State.latchKey_draws (s : State) (k : Nibble) : (s.latchKey k).draws = s.draws := rfl

/-! ### `State.setExecState` -/

@[simp] theorem State.setExecState_V (s : State) (v : ExecState) : (s.setExecState v).V = s.V := rfl
@[simp] theorem State.setExecState_I (s : State) (v : ExecState) : (s.setExecState v).I = s.I := rfl
@[simp] theorem State.setExecState_pc (s : State) (v : ExecState) : (s.setExecState v).pc = s.pc := rfl
@[simp] theorem State.setExecState_stack (s : State) (v : ExecState) : (s.setExecState v).stack = s.stack := rfl
@[simp] theorem State.setExecState_sp (s : State) (v : ExecState) : (s.setExecState v).sp = s.sp := rfl
@[simp] theorem State.setExecState_DT (s : State) (v : ExecState) : (s.setExecState v).DT = s.DT := rfl
@[simp] theorem State.setExecState_ST (s : State) (v : ExecState) : (s.setExecState v).ST = s.ST := rfl
@[simp] theorem State.setExecState_mem (s : State) (v : ExecState) : (s.setExecState v).mem = s.mem := rfl
@[simp] theorem State.setExecState_fb (s : State) (v : ExecState) : (s.setExecState v).fb = s.fb := rfl
@[simp] theorem State.setExecState_keypad (s : State) (v : ExecState) : (s.setExecState v).keypad = s.keypad := rfl
@[simp] theorem State.setExecState_execState (s : State) (v : ExecState) : (s.setExecState v).execState = v := rfl
@[simp] theorem State.setExecState_ir (s : State) (v : ExecState) : (s.setExecState v).ir = s.ir := rfl
@[simp] theorem State.setExecState_dirty (s : State) (v : ExecState) : (s.setExecState v).dirty = s.dirty := rfl
@[simp] theorem State.setExecState_kwState (s : State) (v : ExecState) : (s.setExecState v).kwState = s.kwState := rfl
@[simp] theorem State.setExecState_kwIdx (s : State) (v : ExecState) : (s.setExecState v).kwIdx = s.kwIdx := rfl
@[simp] theorem State.setExecState_faultValid (s : State) (v : ExecState) : (s.setExecState v).faultValid = s.faultValid := rfl
@[simp] theorem State.setExecState_faultCode (s : State) (v : ExecState) : (s.setExecState v).faultCode = s.faultCode := rfl
@[simp] theorem State.setExecState_faultPc (s : State) (v : ExecState) : (s.setExecState v).faultPc = s.faultPc := rfl
@[simp] theorem State.setExecState_faultInfo (s : State) (v : ExecState) : (s.setExecState v).faultInfo = s.faultInfo := rfl
@[simp] theorem State.setExecState_status (s : State) (v : ExecState) : (s.setExecState v).status = s.status := rfl
@[simp] theorem State.setExecState_cfg (s : State) (v : ExecState) : (s.setExecState v).cfg = s.cfg := rfl
@[simp] theorem State.setExecState_draws (s : State) (v : ExecState) : (s.setExecState v).draws = s.draws := rfl

/-! ### `State.show` -/

@[simp] theorem State.show_V (s : State) (f : Framebuffer) : (s.show f).V = s.V := rfl
@[simp] theorem State.show_I (s : State) (f : Framebuffer) : (s.show f).I = s.I := rfl
@[simp] theorem State.show_pc (s : State) (f : Framebuffer) : (s.show f).pc = s.pc := rfl
@[simp] theorem State.show_stack (s : State) (f : Framebuffer) : (s.show f).stack = s.stack := rfl
@[simp] theorem State.show_sp (s : State) (f : Framebuffer) : (s.show f).sp = s.sp := rfl
@[simp] theorem State.show_DT (s : State) (f : Framebuffer) : (s.show f).DT = s.DT := rfl
@[simp] theorem State.show_ST (s : State) (f : Framebuffer) : (s.show f).ST = s.ST := rfl
@[simp] theorem State.show_mem (s : State) (f : Framebuffer) : (s.show f).mem = s.mem := rfl
@[simp] theorem State.show_fb (s : State) (f : Framebuffer) : (s.show f).fb = f := rfl
@[simp] theorem State.show_keypad (s : State) (f : Framebuffer) : (s.show f).keypad = s.keypad := rfl
@[simp] theorem State.show_execState (s : State) (f : Framebuffer) : (s.show f).execState = s.execState := rfl
@[simp] theorem State.show_ir (s : State) (f : Framebuffer) : (s.show f).ir = s.ir := rfl
@[simp] theorem State.show_dirty (s : State) (f : Framebuffer) : (s.show f).dirty = true := rfl
@[simp] theorem State.show_kwState (s : State) (f : Framebuffer) : (s.show f).kwState = s.kwState := rfl
@[simp] theorem State.show_kwIdx (s : State) (f : Framebuffer) : (s.show f).kwIdx = s.kwIdx := rfl
@[simp] theorem State.show_faultValid (s : State) (f : Framebuffer) : (s.show f).faultValid = s.faultValid := rfl
@[simp] theorem State.show_faultCode (s : State) (f : Framebuffer) : (s.show f).faultCode = s.faultCode := rfl
@[simp] theorem State.show_faultPc (s : State) (f : Framebuffer) : (s.show f).faultPc = s.faultPc := rfl
@[simp] theorem State.show_faultInfo (s : State) (f : Framebuffer) : (s.show f).faultInfo = s.faultInfo := rfl
@[simp] theorem State.show_status (s : State) (f : Framebuffer) : (s.show f).status = s.status := rfl
@[simp] theorem State.show_cfg (s : State) (f : Framebuffer) : (s.show f).cfg = s.cfg := rfl
@[simp] theorem State.show_draws (s : State) (f : Framebuffer) : (s.show f).draws = s.draws := rfl

/-! ### `State.clearDirty` -/

@[simp] theorem State.clearDirty_V (s : State) : s.clearDirty.V = s.V := rfl
@[simp] theorem State.clearDirty_I (s : State) : s.clearDirty.I = s.I := rfl
@[simp] theorem State.clearDirty_pc (s : State) : s.clearDirty.pc = s.pc := rfl
@[simp] theorem State.clearDirty_stack (s : State) : s.clearDirty.stack = s.stack := rfl
@[simp] theorem State.clearDirty_sp (s : State) : s.clearDirty.sp = s.sp := rfl
@[simp] theorem State.clearDirty_DT (s : State) : s.clearDirty.DT = s.DT := rfl
@[simp] theorem State.clearDirty_ST (s : State) : s.clearDirty.ST = s.ST := rfl
@[simp] theorem State.clearDirty_mem (s : State) : s.clearDirty.mem = s.mem := rfl
@[simp] theorem State.clearDirty_fb (s : State) : s.clearDirty.fb = s.fb := rfl
@[simp] theorem State.clearDirty_keypad (s : State) : s.clearDirty.keypad = s.keypad := rfl
@[simp] theorem State.clearDirty_execState (s : State) : s.clearDirty.execState = s.execState := rfl
@[simp] theorem State.clearDirty_ir (s : State) : s.clearDirty.ir = s.ir := rfl
@[simp] theorem State.clearDirty_dirty (s : State) : s.clearDirty.dirty = false := rfl
@[simp] theorem State.clearDirty_kwState (s : State) : s.clearDirty.kwState = s.kwState := rfl
@[simp] theorem State.clearDirty_kwIdx (s : State) : s.clearDirty.kwIdx = s.kwIdx := rfl
@[simp] theorem State.clearDirty_faultValid (s : State) : s.clearDirty.faultValid = s.faultValid := rfl
@[simp] theorem State.clearDirty_faultCode (s : State) : s.clearDirty.faultCode = s.faultCode := rfl
@[simp] theorem State.clearDirty_faultPc (s : State) : s.clearDirty.faultPc = s.faultPc := rfl
@[simp] theorem State.clearDirty_faultInfo (s : State) : s.clearDirty.faultInfo = s.faultInfo := rfl
@[simp] theorem State.clearDirty_status (s : State) : s.clearDirty.status = s.status := rfl
@[simp] theorem State.clearDirty_cfg (s : State) : s.clearDirty.cfg = s.cfg := rfl
@[simp] theorem State.clearDirty_draws (s : State) : s.clearDirty.draws = s.draws := rfl

/-! ### `State.countDraw` -/

@[simp] theorem State.countDraw_V (s : State) : s.countDraw.V = s.V := rfl
@[simp] theorem State.countDraw_I (s : State) : s.countDraw.I = s.I := rfl
@[simp] theorem State.countDraw_pc (s : State) : s.countDraw.pc = s.pc := rfl
@[simp] theorem State.countDraw_stack (s : State) : s.countDraw.stack = s.stack := rfl
@[simp] theorem State.countDraw_sp (s : State) : s.countDraw.sp = s.sp := rfl
@[simp] theorem State.countDraw_DT (s : State) : s.countDraw.DT = s.DT := rfl
@[simp] theorem State.countDraw_ST (s : State) : s.countDraw.ST = s.ST := rfl
@[simp] theorem State.countDraw_mem (s : State) : s.countDraw.mem = s.mem := rfl
@[simp] theorem State.countDraw_fb (s : State) : s.countDraw.fb = s.fb := rfl
@[simp] theorem State.countDraw_keypad (s : State) : s.countDraw.keypad = s.keypad := rfl
@[simp] theorem State.countDraw_execState (s : State) : s.countDraw.execState = s.execState := rfl
@[simp] theorem State.countDraw_ir (s : State) : s.countDraw.ir = s.ir := rfl
@[simp] theorem State.countDraw_dirty (s : State) : s.countDraw.dirty = s.dirty := rfl
@[simp] theorem State.countDraw_kwState (s : State) : s.countDraw.kwState = s.kwState := rfl
@[simp] theorem State.countDraw_kwIdx (s : State) : s.countDraw.kwIdx = s.kwIdx := rfl
@[simp] theorem State.countDraw_faultValid (s : State) : s.countDraw.faultValid = s.faultValid := rfl
@[simp] theorem State.countDraw_faultCode (s : State) : s.countDraw.faultCode = s.faultCode := rfl
@[simp] theorem State.countDraw_faultPc (s : State) : s.countDraw.faultPc = s.faultPc := rfl
@[simp] theorem State.countDraw_faultInfo (s : State) : s.countDraw.faultInfo = s.faultInfo := rfl
@[simp] theorem State.countDraw_status (s : State) : s.countDraw.status = s.status := rfl
@[simp] theorem State.countDraw_cfg (s : State) : s.countDraw.cfg = s.cfg := rfl
@[simp] theorem State.countDraw_draws (s : State) : s.countDraw.draws = s.draws + 1 := rfl

/-! ### `State.raise` -/

@[simp] theorem State.raise_V (s : State) (c : FaultCode) (w : Word) : (s.raise c w).V = s.V := rfl
@[simp] theorem State.raise_I (s : State) (c : FaultCode) (w : Word) : (s.raise c w).I = s.I := rfl
@[simp] theorem State.raise_pc (s : State) (c : FaultCode) (w : Word) : (s.raise c w).pc = s.pc := rfl
@[simp] theorem State.raise_stack (s : State) (c : FaultCode) (w : Word) : (s.raise c w).stack = s.stack := rfl
@[simp] theorem State.raise_sp (s : State) (c : FaultCode) (w : Word) : (s.raise c w).sp = s.sp := rfl
@[simp] theorem State.raise_DT (s : State) (c : FaultCode) (w : Word) : (s.raise c w).DT = s.DT := rfl
@[simp] theorem State.raise_ST (s : State) (c : FaultCode) (w : Word) : (s.raise c w).ST = s.ST := rfl
@[simp] theorem State.raise_mem (s : State) (c : FaultCode) (w : Word) : (s.raise c w).mem = s.mem := rfl
@[simp] theorem State.raise_fb (s : State) (c : FaultCode) (w : Word) : (s.raise c w).fb = s.fb := rfl
@[simp] theorem State.raise_keypad (s : State) (c : FaultCode) (w : Word) : (s.raise c w).keypad = s.keypad := rfl
@[simp] theorem State.raise_execState (s : State) (c : FaultCode) (w : Word) : (s.raise c w).execState = s.execState := rfl
@[simp] theorem State.raise_ir (s : State) (c : FaultCode) (w : Word) : (s.raise c w).ir = s.ir := rfl
@[simp] theorem State.raise_dirty (s : State) (c : FaultCode) (w : Word) : (s.raise c w).dirty = s.dirty := rfl
@[simp] theorem State.raise_kwState (s : State) (c : FaultCode) (w : Word) : (s.raise c w).kwState = s.kwState := rfl
@[simp] theorem State.raise_kwIdx (s : State) (c : FaultCode) (w : Word) : (s.raise c w).kwIdx = s.kwIdx := rfl
@[simp] theorem State.raise_faultValid (s : State) (c : FaultCode) (w : Word) : (s.raise c w).faultValid = true := rfl
@[simp] theorem State.raise_faultCode (s : State) (c : FaultCode) (w : Word) : (s.raise c w).faultCode = c := rfl
@[simp] theorem State.raise_faultPc (s : State) (c : FaultCode) (w : Word) : (s.raise c w).faultPc = s.pc := rfl
@[simp] theorem State.raise_faultInfo (s : State) (c : FaultCode) (w : Word) : (s.raise c w).faultInfo = w := rfl
@[simp] theorem State.raise_status (s : State) (c : FaultCode) (w : Word) : (s.raise c w).status = .fault := rfl
@[simp] theorem State.raise_cfg (s : State) (c : FaultCode) (w : Word) : (s.raise c w).cfg = s.cfg := rfl
@[simp] theorem State.raise_draws (s : State) (c : FaultCode) (w : Word) : (s.raise c w).draws = s.draws := rfl

/-! ### `State.skipIf` -/

@[simp] theorem State.skipIf_V (s : State) (c : Bool) : (s.skipIf c).V = s.V := by
  unfold State.skipIf; split <;> rfl
@[simp] theorem State.skipIf_I (s : State) (c : Bool) : (s.skipIf c).I = s.I := by
  unfold State.skipIf; split <;> rfl
@[simp] theorem State.skipIf_stack (s : State) (c : Bool) : (s.skipIf c).stack = s.stack := by
  unfold State.skipIf; split <;> rfl
@[simp] theorem State.skipIf_sp (s : State) (c : Bool) : (s.skipIf c).sp = s.sp := by
  unfold State.skipIf; split <;> rfl
@[simp] theorem State.skipIf_DT (s : State) (c : Bool) : (s.skipIf c).DT = s.DT := by
  unfold State.skipIf; split <;> rfl
@[simp] theorem State.skipIf_ST (s : State) (c : Bool) : (s.skipIf c).ST = s.ST := by
  unfold State.skipIf; split <;> rfl
@[simp] theorem State.skipIf_mem (s : State) (c : Bool) : (s.skipIf c).mem = s.mem := by
  unfold State.skipIf; split <;> rfl
@[simp] theorem State.skipIf_fb (s : State) (c : Bool) : (s.skipIf c).fb = s.fb := by
  unfold State.skipIf; split <;> rfl
@[simp] theorem State.skipIf_keypad (s : State) (c : Bool) : (s.skipIf c).keypad = s.keypad := by
  unfold State.skipIf; split <;> rfl
@[simp] theorem State.skipIf_execState (s : State) (c : Bool) : (s.skipIf c).execState = s.execState := by
  unfold State.skipIf; split <;> rfl
@[simp] theorem State.skipIf_ir (s : State) (c : Bool) : (s.skipIf c).ir = s.ir := by
  unfold State.skipIf; split <;> rfl
@[simp] theorem State.skipIf_dirty (s : State) (c : Bool) : (s.skipIf c).dirty = s.dirty := by
  unfold State.skipIf; split <;> rfl
@[simp] theorem State.skipIf_kwState (s : State) (c : Bool) : (s.skipIf c).kwState = s.kwState := by
  unfold State.skipIf; split <;> rfl
@[simp] theorem State.skipIf_kwIdx (s : State) (c : Bool) : (s.skipIf c).kwIdx = s.kwIdx := by
  unfold State.skipIf; split <;> rfl
@[simp] theorem State.skipIf_faultValid (s : State) (c : Bool) : (s.skipIf c).faultValid = s.faultValid := by
  unfold State.skipIf; split <;> rfl
@[simp] theorem State.skipIf_faultCode (s : State) (c : Bool) : (s.skipIf c).faultCode = s.faultCode := by
  unfold State.skipIf; split <;> rfl
@[simp] theorem State.skipIf_faultPc (s : State) (c : Bool) : (s.skipIf c).faultPc = s.faultPc := by
  unfold State.skipIf; split <;> rfl
@[simp] theorem State.skipIf_faultInfo (s : State) (c : Bool) : (s.skipIf c).faultInfo = s.faultInfo := by
  unfold State.skipIf; split <;> rfl
@[simp] theorem State.skipIf_status (s : State) (c : Bool) : (s.skipIf c).status = s.status := by
  unfold State.skipIf; split <;> rfl
@[simp] theorem State.skipIf_cfg (s : State) (c : Bool) : (s.skipIf c).cfg = s.cfg := by
  unfold State.skipIf; split <;> rfl
@[simp] theorem State.skipIf_draws (s : State) (c : Bool) : (s.skipIf c).draws = s.draws := by
  unfold State.skipIf; split <;> rfl

/-! ### `State.pushReturn` -/

@[simp] theorem State.pushReturn_V (s : State) (a : Word) : (s.pushReturn a).V = s.V := by
  unfold State.pushReturn; split <;> rfl
@[simp] theorem State.pushReturn_I (s : State) (a : Word) : (s.pushReturn a).I = s.I := by
  unfold State.pushReturn; split <;> rfl
@[simp] theorem State.pushReturn_pc (s : State) (a : Word) : (s.pushReturn a).pc = s.pc := by
  unfold State.pushReturn; split <;> rfl
@[simp] theorem State.pushReturn_DT (s : State) (a : Word) : (s.pushReturn a).DT = s.DT := by
  unfold State.pushReturn; split <;> rfl
@[simp] theorem State.pushReturn_ST (s : State) (a : Word) : (s.pushReturn a).ST = s.ST := by
  unfold State.pushReturn; split <;> rfl
@[simp] theorem State.pushReturn_mem (s : State) (a : Word) : (s.pushReturn a).mem = s.mem := by
  unfold State.pushReturn; split <;> rfl
@[simp] theorem State.pushReturn_fb (s : State) (a : Word) : (s.pushReturn a).fb = s.fb := by
  unfold State.pushReturn; split <;> rfl
@[simp] theorem State.pushReturn_keypad (s : State) (a : Word) : (s.pushReturn a).keypad = s.keypad := by
  unfold State.pushReturn; split <;> rfl
@[simp] theorem State.pushReturn_execState (s : State) (a : Word) : (s.pushReturn a).execState = s.execState := by
  unfold State.pushReturn; split <;> rfl
@[simp] theorem State.pushReturn_ir (s : State) (a : Word) : (s.pushReturn a).ir = s.ir := by
  unfold State.pushReturn; split <;> rfl
@[simp] theorem State.pushReturn_dirty (s : State) (a : Word) : (s.pushReturn a).dirty = s.dirty := by
  unfold State.pushReturn; split <;> rfl
@[simp] theorem State.pushReturn_kwState (s : State) (a : Word) : (s.pushReturn a).kwState = s.kwState := by
  unfold State.pushReturn; split <;> rfl
@[simp] theorem State.pushReturn_kwIdx (s : State) (a : Word) : (s.pushReturn a).kwIdx = s.kwIdx := by
  unfold State.pushReturn; split <;> rfl
@[simp] theorem State.pushReturn_faultValid (s : State) (a : Word) : (s.pushReturn a).faultValid = s.faultValid := by
  unfold State.pushReturn; split <;> rfl
@[simp] theorem State.pushReturn_faultCode (s : State) (a : Word) : (s.pushReturn a).faultCode = s.faultCode := by
  unfold State.pushReturn; split <;> rfl
@[simp] theorem State.pushReturn_faultPc (s : State) (a : Word) : (s.pushReturn a).faultPc = s.faultPc := by
  unfold State.pushReturn; split <;> rfl
@[simp] theorem State.pushReturn_faultInfo (s : State) (a : Word) : (s.pushReturn a).faultInfo = s.faultInfo := by
  unfold State.pushReturn; split <;> rfl
@[simp] theorem State.pushReturn_status (s : State) (a : Word) : (s.pushReturn a).status = s.status := by
  unfold State.pushReturn; split <;> rfl
@[simp] theorem State.pushReturn_cfg (s : State) (a : Word) : (s.pushReturn a).cfg = s.cfg := by
  unfold State.pushReturn; split <;> rfl
@[simp] theorem State.pushReturn_draws (s : State) (a : Word) : (s.pushReturn a).draws = s.draws := by
  unfold State.pushReturn; split <;> rfl

/-! ### `State.popReturn` -/

@[simp] theorem State.popReturn_V (s : State) : s.popReturn.V = s.V := by
  unfold State.popReturn; split <;> rfl
@[simp] theorem State.popReturn_I (s : State) : s.popReturn.I = s.I := by
  unfold State.popReturn; split <;> rfl
@[simp] theorem State.popReturn_stack (s : State) : s.popReturn.stack = s.stack := by
  unfold State.popReturn; split <;> rfl
@[simp] theorem State.popReturn_DT (s : State) : s.popReturn.DT = s.DT := by
  unfold State.popReturn; split <;> rfl
@[simp] theorem State.popReturn_ST (s : State) : s.popReturn.ST = s.ST := by
  unfold State.popReturn; split <;> rfl
@[simp] theorem State.popReturn_mem (s : State) : s.popReturn.mem = s.mem := by
  unfold State.popReturn; split <;> rfl
@[simp] theorem State.popReturn_fb (s : State) : s.popReturn.fb = s.fb := by
  unfold State.popReturn; split <;> rfl
@[simp] theorem State.popReturn_keypad (s : State) : s.popReturn.keypad = s.keypad := by
  unfold State.popReturn; split <;> rfl
@[simp] theorem State.popReturn_execState (s : State) : s.popReturn.execState = s.execState := by
  unfold State.popReturn; split <;> rfl
@[simp] theorem State.popReturn_ir (s : State) : s.popReturn.ir = s.ir := by
  unfold State.popReturn; split <;> rfl
@[simp] theorem State.popReturn_dirty (s : State) : s.popReturn.dirty = s.dirty := by
  unfold State.popReturn; split <;> rfl
@[simp] theorem State.popReturn_kwState (s : State) : s.popReturn.kwState = s.kwState := by
  unfold State.popReturn; split <;> rfl
@[simp] theorem State.popReturn_kwIdx (s : State) : s.popReturn.kwIdx = s.kwIdx := by
  unfold State.popReturn; split <;> rfl
@[simp] theorem State.popReturn_faultValid (s : State) : s.popReturn.faultValid = s.faultValid := by
  unfold State.popReturn; split <;> rfl
@[simp] theorem State.popReturn_faultCode (s : State) : s.popReturn.faultCode = s.faultCode := by
  unfold State.popReturn; split <;> rfl
@[simp] theorem State.popReturn_faultPc (s : State) : s.popReturn.faultPc = s.faultPc := by
  unfold State.popReturn; split <;> rfl
@[simp] theorem State.popReturn_faultInfo (s : State) : s.popReturn.faultInfo = s.faultInfo := by
  unfold State.popReturn; split <;> rfl
@[simp] theorem State.popReturn_status (s : State) : s.popReturn.status = s.status := by
  unfold State.popReturn; split <;> rfl
@[simp] theorem State.popReturn_cfg (s : State) : s.popReturn.cfg = s.cfg := by
  unfold State.popReturn; split <;> rfl
@[simp] theorem State.popReturn_draws (s : State) : s.popReturn.draws = s.draws := by
  unfold State.popReturn; split <;> rfl

/-! ### `State.loadRegs` -/

@[simp] theorem State.loadRegs_I (s : State) (n : Nat) : (s.loadRegs n).I = s.I := by
  induction n with
  | zero => rfl
  | succ k ih => exact ih
@[simp] theorem State.loadRegs_pc (s : State) (n : Nat) : (s.loadRegs n).pc = s.pc := by
  induction n with
  | zero => rfl
  | succ k ih => exact ih
@[simp] theorem State.loadRegs_stack (s : State) (n : Nat) : (s.loadRegs n).stack = s.stack := by
  induction n with
  | zero => rfl
  | succ k ih => exact ih
@[simp] theorem State.loadRegs_sp (s : State) (n : Nat) : (s.loadRegs n).sp = s.sp := by
  induction n with
  | zero => rfl
  | succ k ih => exact ih
@[simp] theorem State.loadRegs_DT (s : State) (n : Nat) : (s.loadRegs n).DT = s.DT := by
  induction n with
  | zero => rfl
  | succ k ih => exact ih
@[simp] theorem State.loadRegs_ST (s : State) (n : Nat) : (s.loadRegs n).ST = s.ST := by
  induction n with
  | zero => rfl
  | succ k ih => exact ih
@[simp] theorem State.loadRegs_mem (s : State) (n : Nat) : (s.loadRegs n).mem = s.mem := by
  induction n with
  | zero => rfl
  | succ k ih => exact ih
@[simp] theorem State.loadRegs_fb (s : State) (n : Nat) : (s.loadRegs n).fb = s.fb := by
  induction n with
  | zero => rfl
  | succ k ih => exact ih
@[simp] theorem State.loadRegs_keypad (s : State) (n : Nat) : (s.loadRegs n).keypad = s.keypad := by
  induction n with
  | zero => rfl
  | succ k ih => exact ih
@[simp] theorem State.loadRegs_execState (s : State) (n : Nat) : (s.loadRegs n).execState = s.execState := by
  induction n with
  | zero => rfl
  | succ k ih => exact ih
@[simp] theorem State.loadRegs_ir (s : State) (n : Nat) : (s.loadRegs n).ir = s.ir := by
  induction n with
  | zero => rfl
  | succ k ih => exact ih
@[simp] theorem State.loadRegs_dirty (s : State) (n : Nat) : (s.loadRegs n).dirty = s.dirty := by
  induction n with
  | zero => rfl
  | succ k ih => exact ih
@[simp] theorem State.loadRegs_kwState (s : State) (n : Nat) : (s.loadRegs n).kwState = s.kwState := by
  induction n with
  | zero => rfl
  | succ k ih => exact ih
@[simp] theorem State.loadRegs_kwIdx (s : State) (n : Nat) : (s.loadRegs n).kwIdx = s.kwIdx := by
  induction n with
  | zero => rfl
  | succ k ih => exact ih
@[simp] theorem State.loadRegs_faultValid (s : State) (n : Nat) : (s.loadRegs n).faultValid = s.faultValid := by
  induction n with
  | zero => rfl
  | succ k ih => exact ih
@[simp] theorem State.loadRegs_faultCode (s : State) (n : Nat) : (s.loadRegs n).faultCode = s.faultCode := by
  induction n with
  | zero => rfl
  | succ k ih => exact ih
@[simp] theorem State.loadRegs_faultPc (s : State) (n : Nat) : (s.loadRegs n).faultPc = s.faultPc := by
  induction n with
  | zero => rfl
  | succ k ih => exact ih
@[simp] theorem State.loadRegs_faultInfo (s : State) (n : Nat) : (s.loadRegs n).faultInfo = s.faultInfo := by
  induction n with
  | zero => rfl
  | succ k ih => exact ih
@[simp] theorem State.loadRegs_status (s : State) (n : Nat) : (s.loadRegs n).status = s.status := by
  induction n with
  | zero => rfl
  | succ k ih => exact ih
@[simp] theorem State.loadRegs_cfg (s : State) (n : Nat) : (s.loadRegs n).cfg = s.cfg := by
  induction n with
  | zero => rfl
  | succ k ih => exact ih
@[simp] theorem State.loadRegs_draws (s : State) (n : Nat) : (s.loadRegs n).draws = s.draws := by
  induction n with
  | zero => rfl
  | succ k ih => exact ih

/-! ### `State.incIndex` -/

@[simp] theorem State.incIndex_V (s : State) (x : Nibble) : (s.incIndex x).V = s.V := by
  unfold State.incIndex; split <;> rfl
@[simp] theorem State.incIndex_pc (s : State) (x : Nibble) : (s.incIndex x).pc = s.pc := by
  unfold State.incIndex; split <;> rfl
@[simp] theorem State.incIndex_stack (s : State) (x : Nibble) : (s.incIndex x).stack = s.stack := by
  unfold State.incIndex; split <;> rfl
@[simp] theorem State.incIndex_sp (s : State) (x : Nibble) : (s.incIndex x).sp = s.sp := by
  unfold State.incIndex; split <;> rfl
@[simp] theorem State.incIndex_DT (s : State) (x : Nibble) : (s.incIndex x).DT = s.DT := by
  unfold State.incIndex; split <;> rfl
@[simp] theorem State.incIndex_ST (s : State) (x : Nibble) : (s.incIndex x).ST = s.ST := by
  unfold State.incIndex; split <;> rfl
@[simp] theorem State.incIndex_mem (s : State) (x : Nibble) : (s.incIndex x).mem = s.mem := by
  unfold State.incIndex; split <;> rfl
@[simp] theorem State.incIndex_fb (s : State) (x : Nibble) : (s.incIndex x).fb = s.fb := by
  unfold State.incIndex; split <;> rfl
@[simp] theorem State.incIndex_keypad (s : State) (x : Nibble) : (s.incIndex x).keypad = s.keypad := by
  unfold State.incIndex; split <;> rfl
@[simp] theorem State.incIndex_execState (s : State) (x : Nibble) : (s.incIndex x).execState = s.execState := by
  unfold State.incIndex; split <;> rfl
@[simp] theorem State.incIndex_ir (s : State) (x : Nibble) : (s.incIndex x).ir = s.ir := by
  unfold State.incIndex; split <;> rfl
@[simp] theorem State.incIndex_dirty (s : State) (x : Nibble) : (s.incIndex x).dirty = s.dirty := by
  unfold State.incIndex; split <;> rfl
@[simp] theorem State.incIndex_kwState (s : State) (x : Nibble) : (s.incIndex x).kwState = s.kwState := by
  unfold State.incIndex; split <;> rfl
@[simp] theorem State.incIndex_kwIdx (s : State) (x : Nibble) : (s.incIndex x).kwIdx = s.kwIdx := by
  unfold State.incIndex; split <;> rfl
@[simp] theorem State.incIndex_faultValid (s : State) (x : Nibble) : (s.incIndex x).faultValid = s.faultValid := by
  unfold State.incIndex; split <;> rfl
@[simp] theorem State.incIndex_faultCode (s : State) (x : Nibble) : (s.incIndex x).faultCode = s.faultCode := by
  unfold State.incIndex; split <;> rfl
@[simp] theorem State.incIndex_faultPc (s : State) (x : Nibble) : (s.incIndex x).faultPc = s.faultPc := by
  unfold State.incIndex; split <;> rfl
@[simp] theorem State.incIndex_faultInfo (s : State) (x : Nibble) : (s.incIndex x).faultInfo = s.faultInfo := by
  unfold State.incIndex; split <;> rfl
@[simp] theorem State.incIndex_status (s : State) (x : Nibble) : (s.incIndex x).status = s.status := by
  unfold State.incIndex; split <;> rfl
@[simp] theorem State.incIndex_cfg (s : State) (x : Nibble) : (s.incIndex x).cfg = s.cfg := by
  unfold State.incIndex; split <;> rfl
@[simp] theorem State.incIndex_draws (s : State) (x : Nibble) : (s.incIndex x).draws = s.draws := by
  unfold State.incIndex; split <;> rfl

/-! ### `State.awaitPress` -/

@[simp] theorem State.awaitPress_V (s : State) : s.awaitPress.V = s.V := by
  unfold State.awaitPress; split <;> rfl
@[simp] theorem State.awaitPress_I (s : State) : s.awaitPress.I = s.I := by
  unfold State.awaitPress; split <;> rfl
@[simp] theorem State.awaitPress_pc (s : State) : s.awaitPress.pc = s.pc := by
  unfold State.awaitPress; split <;> rfl
@[simp] theorem State.awaitPress_stack (s : State) : s.awaitPress.stack = s.stack := by
  unfold State.awaitPress; split <;> rfl
@[simp] theorem State.awaitPress_sp (s : State) : s.awaitPress.sp = s.sp := by
  unfold State.awaitPress; split <;> rfl
@[simp] theorem State.awaitPress_DT (s : State) : s.awaitPress.DT = s.DT := by
  unfold State.awaitPress; split <;> rfl
@[simp] theorem State.awaitPress_ST (s : State) : s.awaitPress.ST = s.ST := by
  unfold State.awaitPress; split <;> rfl
@[simp] theorem State.awaitPress_mem (s : State) : s.awaitPress.mem = s.mem := by
  unfold State.awaitPress; split <;> rfl
@[simp] theorem State.awaitPress_fb (s : State) : s.awaitPress.fb = s.fb := by
  unfold State.awaitPress; split <;> rfl
@[simp] theorem State.awaitPress_keypad (s : State) : s.awaitPress.keypad = s.keypad := by
  unfold State.awaitPress; split <;> rfl
@[simp] theorem State.awaitPress_execState (s : State) : s.awaitPress.execState = s.execState := by
  unfold State.awaitPress; split <;> rfl
@[simp] theorem State.awaitPress_ir (s : State) : s.awaitPress.ir = s.ir := by
  unfold State.awaitPress; split <;> rfl
@[simp] theorem State.awaitPress_dirty (s : State) : s.awaitPress.dirty = s.dirty := by
  unfold State.awaitPress; split <;> rfl
@[simp] theorem State.awaitPress_faultValid (s : State) : s.awaitPress.faultValid = s.faultValid := by
  unfold State.awaitPress; split <;> rfl
@[simp] theorem State.awaitPress_faultCode (s : State) : s.awaitPress.faultCode = s.faultCode := by
  unfold State.awaitPress; split <;> rfl
@[simp] theorem State.awaitPress_faultPc (s : State) : s.awaitPress.faultPc = s.faultPc := by
  unfold State.awaitPress; split <;> rfl
@[simp] theorem State.awaitPress_faultInfo (s : State) : s.awaitPress.faultInfo = s.faultInfo := by
  unfold State.awaitPress; split <;> rfl
@[simp] theorem State.awaitPress_status (s : State) : s.awaitPress.status = s.status := by
  unfold State.awaitPress; split <;> rfl
@[simp] theorem State.awaitPress_cfg (s : State) : s.awaitPress.cfg = s.cfg := by
  unfold State.awaitPress; split <;> rfl
@[simp] theorem State.awaitPress_draws (s : State) : s.awaitPress.draws = s.draws := by
  unfold State.awaitPress; split <;> rfl

/-! ### `State.keepDraws` -/

@[simp] theorem State.keepDraws_V (s t : State) : (s.keepDraws t).V = t.V := rfl
@[simp] theorem State.keepDraws_I (s t : State) : (s.keepDraws t).I = t.I := rfl
@[simp] theorem State.keepDraws_pc (s t : State) : (s.keepDraws t).pc = t.pc := rfl
@[simp] theorem State.keepDraws_stack (s t : State) : (s.keepDraws t).stack = t.stack := rfl
@[simp] theorem State.keepDraws_sp (s t : State) : (s.keepDraws t).sp = t.sp := rfl
@[simp] theorem State.keepDraws_DT (s t : State) : (s.keepDraws t).DT = t.DT := rfl
@[simp] theorem State.keepDraws_ST (s t : State) : (s.keepDraws t).ST = t.ST := rfl
@[simp] theorem State.keepDraws_mem (s t : State) : (s.keepDraws t).mem = t.mem := rfl
@[simp] theorem State.keepDraws_fb (s t : State) : (s.keepDraws t).fb = t.fb := rfl
@[simp] theorem State.keepDraws_keypad (s t : State) : (s.keepDraws t).keypad = t.keypad := rfl
@[simp] theorem State.keepDraws_execState (s t : State) : (s.keepDraws t).execState = t.execState := rfl
@[simp] theorem State.keepDraws_ir (s t : State) : (s.keepDraws t).ir = t.ir := rfl
@[simp] theorem State.keepDraws_dirty (s t : State) : (s.keepDraws t).dirty = t.dirty := rfl
@[simp] theorem State.keepDraws_kwState (s t : State) : (s.keepDraws t).kwState = t.kwState := rfl
@[simp] theorem State.keepDraws_kwIdx (s t : State) : (s.keepDraws t).kwIdx = t.kwIdx := rfl
@[simp] theorem State.keepDraws_faultValid (s t : State) : (s.keepDraws t).faultValid = t.faultValid := rfl
@[simp] theorem State.keepDraws_faultCode (s t : State) : (s.keepDraws t).faultCode = t.faultCode := rfl
@[simp] theorem State.keepDraws_faultPc (s t : State) : (s.keepDraws t).faultPc = t.faultPc := rfl
@[simp] theorem State.keepDraws_faultInfo (s t : State) : (s.keepDraws t).faultInfo = t.faultInfo := rfl
@[simp] theorem State.keepDraws_status (s t : State) : (s.keepDraws t).status = t.status := rfl
@[simp] theorem State.keepDraws_cfg (s t : State) : (s.keepDraws t).cfg = t.cfg := rfl
@[simp] theorem State.keepDraws_draws (s t : State) : (s.keepDraws t).draws = s.draws := rfl
/-! ### Registers, bytes and keys after an update that does not write them -/

@[simp] theorem State.setI_reg (s : State) (v : Word) (r : Nibble) : (s.setI v).reg r = s.reg r := rfl
@[simp] theorem State.setPc_reg (s : State) (v : Word) (r : Nibble) : (s.setPc v).reg r = s.reg r := rfl
@[simp] theorem State.advance_reg (s : State) (r : Nibble) : s.advance.reg r = s.reg r := rfl
@[simp] theorem State.setDT_reg (s : State) (v : Byte) (r : Nibble) : (s.setDT v).reg r = s.reg r := rfl
@[simp] theorem State.setST_reg (s : State) (v : Byte) (r : Nibble) : (s.setST v).reg r = s.reg r := rfl
@[simp] theorem State.setStatus_reg (s : State) (v : StepStatus) (r : Nibble) : (s.setStatus v).reg r = s.reg r := rfl
@[simp] theorem State.latchIr_reg (s : State) (op : Word) (r : Nibble) : (s.latchIr op).reg r = s.reg r := rfl
@[simp] theorem State.storeBytes_reg (s : State) (a : Nat) (vs : List Byte) (r : Nibble) : (s.storeBytes a vs).reg r = s.reg r := rfl
@[simp] theorem State.setKey_reg (s : State) (k : Nibble) (b : Bool) (r : Nibble) : (s.setKey k b).reg r = s.reg r := rfl
@[simp] theorem State.setKwState_reg (s : State) (v : KwState) (r : Nibble) : (s.setKwState v).reg r = s.reg r := rfl
@[simp] theorem State.latchKey_reg (s : State) (k : Nibble) (r : Nibble) : (s.latchKey k).reg r = s.reg r := rfl
@[simp] theorem State.setExecState_reg (s : State) (v : ExecState) (r : Nibble) : (s.setExecState v).reg r = s.reg r := rfl
@[simp] theorem State.show_reg (s : State) (f : Framebuffer) (r : Nibble) : (s.show f).reg r = s.reg r := rfl
@[simp] theorem State.clearDirty_reg (s : State) (r : Nibble) : s.clearDirty.reg r = s.reg r := rfl
@[simp] theorem State.countDraw_reg (s : State) (r : Nibble) : s.countDraw.reg r = s.reg r := rfl
@[simp] theorem State.raise_reg (s : State) (c : FaultCode) (w : Word) (r : Nibble) : (s.raise c w).reg r = s.reg r := rfl
@[simp] theorem State.skipIf_reg (s : State) (c : Bool) (r : Nibble) : (s.skipIf c).reg r = s.reg r := by
  simp [State.reg]
@[simp] theorem State.pushReturn_reg (s : State) (a : Word) (r : Nibble) : (s.pushReturn a).reg r = s.reg r := by
  simp [State.reg]
@[simp] theorem State.popReturn_reg (s : State) (r : Nibble) : s.popReturn.reg r = s.reg r := by
  simp [State.reg]
@[simp] theorem State.incIndex_reg (s : State) (x : Nibble) (r : Nibble) : (s.incIndex x).reg r = s.reg r := by
  simp [State.reg]
@[simp] theorem State.awaitPress_reg (s : State) (r : Nibble) : s.awaitPress.reg r = s.reg r := by
  simp [State.reg]
@[simp] theorem State.setReg_readByte (s : State) (x : Nibble) (v : Byte) (q : Nat) : (s.setReg x v).readByte q = s.readByte q := rfl
@[simp] theorem State.setRegFlag_readByte (s : State) (x : Nibble) (v f : Byte) (q : Nat) : (s.setRegFlag x v f).readByte q = s.readByte q := rfl
@[simp] theorem State.setI_readByte (s : State) (v : Word) (q : Nat) : (s.setI v).readByte q = s.readByte q := rfl
@[simp] theorem State.setPc_readByte (s : State) (v : Word) (q : Nat) : (s.setPc v).readByte q = s.readByte q := rfl
@[simp] theorem State.advance_readByte (s : State) (q : Nat) : s.advance.readByte q = s.readByte q := rfl
@[simp] theorem State.setDT_readByte (s : State) (v : Byte) (q : Nat) : (s.setDT v).readByte q = s.readByte q := rfl
@[simp] theorem State.setST_readByte (s : State) (v : Byte) (q : Nat) : (s.setST v).readByte q = s.readByte q := rfl
@[simp] theorem State.setStatus_readByte (s : State) (v : StepStatus) (q : Nat) : (s.setStatus v).readByte q = s.readByte q := rfl
@[simp] theorem State.latchIr_readByte (s : State) (op : Word) (q : Nat) : (s.latchIr op).readByte q = s.readByte q := rfl
@[simp] theorem State.setKey_readByte (s : State) (k : Nibble) (b : Bool) (q : Nat) : (s.setKey k b).readByte q = s.readByte q := rfl
@[simp] theorem State.setKwState_readByte (s : State) (v : KwState) (q : Nat) : (s.setKwState v).readByte q = s.readByte q := rfl
@[simp] theorem State.latchKey_readByte (s : State) (k : Nibble) (q : Nat) : (s.latchKey k).readByte q = s.readByte q := rfl
@[simp] theorem State.setExecState_readByte (s : State) (v : ExecState) (q : Nat) : (s.setExecState v).readByte q = s.readByte q := rfl
@[simp] theorem State.show_readByte (s : State) (f : Framebuffer) (q : Nat) : (s.show f).readByte q = s.readByte q := rfl
@[simp] theorem State.clearDirty_readByte (s : State) (q : Nat) : s.clearDirty.readByte q = s.readByte q := rfl
@[simp] theorem State.countDraw_readByte (s : State) (q : Nat) : s.countDraw.readByte q = s.readByte q := rfl
@[simp] theorem State.raise_readByte (s : State) (c : FaultCode) (w : Word) (q : Nat) : (s.raise c w).readByte q = s.readByte q := rfl
@[simp] theorem State.skipIf_readByte (s : State) (c : Bool) (q : Nat) : (s.skipIf c).readByte q = s.readByte q := by
  simp [State.readByte]
@[simp] theorem State.pushReturn_readByte (s : State) (a : Word) (q : Nat) : (s.pushReturn a).readByte q = s.readByte q := by
  simp [State.readByte]
@[simp] theorem State.popReturn_readByte (s : State) (q : Nat) : s.popReturn.readByte q = s.readByte q := by
  simp [State.readByte]
@[simp] theorem State.loadRegs_readByte (s : State) (n : Nat) (q : Nat) : (s.loadRegs n).readByte q = s.readByte q := by
  simp [State.readByte]
@[simp] theorem State.incIndex_readByte (s : State) (x : Nibble) (q : Nat) : (s.incIndex x).readByte q = s.readByte q := by
  simp [State.readByte]
@[simp] theorem State.awaitPress_readByte (s : State) (q : Nat) : s.awaitPress.readByte q = s.readByte q := by
  simp [State.readByte]
@[simp] theorem State.setReg_keyPressed (s : State) (x : Nibble) (v : Byte) (q : Nibble) : (s.setReg x v).keyPressed q = s.keyPressed q := rfl
@[simp] theorem State.setRegFlag_keyPressed (s : State) (x : Nibble) (v f : Byte) (q : Nibble) : (s.setRegFlag x v f).keyPressed q = s.keyPressed q := rfl
@[simp] theorem State.setI_keyPressed (s : State) (v : Word) (q : Nibble) : (s.setI v).keyPressed q = s.keyPressed q := rfl
@[simp] theorem State.setPc_keyPressed (s : State) (v : Word) (q : Nibble) : (s.setPc v).keyPressed q = s.keyPressed q := rfl
@[simp] theorem State.advance_keyPressed (s : State) (q : Nibble) : s.advance.keyPressed q = s.keyPressed q := rfl
@[simp] theorem State.setDT_keyPressed (s : State) (v : Byte) (q : Nibble) : (s.setDT v).keyPressed q = s.keyPressed q := rfl
@[simp] theorem State.setST_keyPressed (s : State) (v : Byte) (q : Nibble) : (s.setST v).keyPressed q = s.keyPressed q := rfl
@[simp] theorem State.setStatus_keyPressed (s : State) (v : StepStatus) (q : Nibble) : (s.setStatus v).keyPressed q = s.keyPressed q := rfl
@[simp] theorem State.latchIr_keyPressed (s : State) (op : Word) (q : Nibble) : (s.latchIr op).keyPressed q = s.keyPressed q := rfl
@[simp] theorem State.storeBytes_keyPressed (s : State) (a : Nat) (vs : List Byte) (q : Nibble) : (s.storeBytes a vs).keyPressed q = s.keyPressed q := rfl
@[simp] theorem State.setKwState_keyPressed (s : State) (v : KwState) (q : Nibble) : (s.setKwState v).keyPressed q = s.keyPressed q := rfl
@[simp] theorem State.latchKey_keyPressed (s : State) (k : Nibble) (q : Nibble) : (s.latchKey k).keyPressed q = s.keyPressed q := rfl
@[simp] theorem State.setExecState_keyPressed (s : State) (v : ExecState) (q : Nibble) : (s.setExecState v).keyPressed q = s.keyPressed q := rfl
@[simp] theorem State.show_keyPressed (s : State) (f : Framebuffer) (q : Nibble) : (s.show f).keyPressed q = s.keyPressed q := rfl
@[simp] theorem State.clearDirty_keyPressed (s : State) (q : Nibble) : s.clearDirty.keyPressed q = s.keyPressed q := rfl
@[simp] theorem State.countDraw_keyPressed (s : State) (q : Nibble) : s.countDraw.keyPressed q = s.keyPressed q := rfl
@[simp] theorem State.raise_keyPressed (s : State) (c : FaultCode) (w : Word) (q : Nibble) : (s.raise c w).keyPressed q = s.keyPressed q := rfl
@[simp] theorem State.skipIf_keyPressed (s : State) (c : Bool) (q : Nibble) : (s.skipIf c).keyPressed q = s.keyPressed q := by
  simp [State.keyPressed]
@[simp] theorem State.pushReturn_keyPressed (s : State) (a : Word) (q : Nibble) : (s.pushReturn a).keyPressed q = s.keyPressed q := by
  simp [State.keyPressed]
@[simp] theorem State.popReturn_keyPressed (s : State) (q : Nibble) : s.popReturn.keyPressed q = s.keyPressed q := by
  simp [State.keyPressed]
@[simp] theorem State.loadRegs_keyPressed (s : State) (n : Nat) (q : Nibble) : (s.loadRegs n).keyPressed q = s.keyPressed q := by
  simp [State.keyPressed]
@[simp] theorem State.incIndex_keyPressed (s : State) (x : Nibble) (q : Nibble) : (s.incIndex x).keyPressed q = s.keyPressed q := by
  simp [State.keyPressed]
@[simp] theorem State.awaitPress_keyPressed (s : State) (q : Nibble) : s.awaitPress.keyPressed q = s.keyPressed q := by
  simp [State.keyPressed]

end Sys2Proof.Machine
end

