-- ==== Sys2Proof/Laws/Ops.lean ====
section
/-! SUPPORT. What each shared operation over registers, memory, stack and keypad does, said once. -/

namespace Sys2Proof.Machine

/-! ### Registers -/

/-- A register after a register is written. -/
theorem State.reg_setReg (s : State) (x y : Nibble) (v : Byte) :
    (s.setReg x v).reg y = if y = x then v else s.reg y := by
  unfold State.reg State.setReg
  simp only [Vector.getElem_set, ← BitVec.toNat_inj]
  by_cases h : x.toNat = y.toNat <;> simp [h, eq_comm]

/-- A register after a result and a flag are written: VF holds the flag, also when it is the destination. -/
theorem State.reg_setRegFlag (s : State) (x y : Nibble) (v f : Byte) :
    (s.setRegFlag x v f).reg y = if y = 0xF#4 then f else if y = x then v else s.reg y := by
  unfold State.setRegFlag
  rw [State.reg_setReg, State.reg_setReg]

/-- The registers after V0 to V(n-1) are loaded from the bytes at `I`. -/
theorem State.reg_loadRegs (s : State) (n : Nat) (hn : n ≤ 16) (r : Nibble) :
    (s.loadRegs n).reg r = if r.toNat < n then s.readByte (s.I.toNat + r.toNat) else s.reg r := by
  induction n with
  | zero => rfl
  | succ k ih =>
    have hr := r.isLt
    simp only [State.loadRegs, State.reg_setReg, ih (by omega)]
    by_cases h : r = BitVec.ofNat 4 k
    · subst h
      have : (BitVec.ofNat 4 k).toNat = k := by simp; omega
      simp [this]
    · have : r.toNat ≠ k := fun e => h (by subst e; simp)
      rw [if_neg h]
      by_cases h2 : r.toNat < k
      · rw [if_pos h2, if_pos (by omega)]
      · rw [if_neg h2, if_neg (by omega)]

@[simp] theorem State.regsUpTo_length (s : State) (x : Nibble) : (s.regsUpTo x).length = x.toNat + 1 := by
  simp [State.regsUpTo]

/-- Element k of V0 to VX is Vk. -/
theorem State.regsUpTo_getD (s : State) (x : Nibble) (k : Nat) (h : k ≤ x.toNat) :
    (s.regsUpTo x).getD k 0#8 = s.reg (BitVec.ofNat 4 k) := by
  simp [State.regsUpTo, List.getD, show k < x.toNat + 1 by omega]

/-! ### Memory -/

/-- A byte after a run of bytes is stored. -/
theorem State.readByte_storeBytes (s : State) (a b : Nat) (vs : List Byte) :
    (s.storeBytes a vs).readByte b = if a ≤ b ∧ b < a + vs.length then vs.getD (b - a) 0#8 else s.readByte b :=
  Memory.read_writeList s.cfg vs a b s.mem

/-- Every address of an access in range lies in the RAM. -/
theorem State.dataInRange_iff (s : State) (n : Nat) :
    s.dataInRange n = true ↔ n = 0 ∨ s.I.toNat + n ≤ memSize := by
  unfold State.dataInRange memSize
  simp only [Bool.or_eq_true, beq_iff_eq, decide_eq_true_eq]
  omega

/-! ### Call stack -/

/-- A push onto a stack with room. -/
theorem State.pushReturn_eq (s : State) (a : Word) (h : s.sp.val < 16) :
    s.pushReturn a = { s with stack := s.stack.set s.sp.val a h, sp := ⟨s.sp.val + 1, by omega⟩ } := by
  unfold State.pushReturn
  rw [dif_pos h]

/-- A pop of a stack that holds something. -/
theorem State.popReturn_eq (s : State) (h : 0 < s.sp.val) :
    s.popReturn =
      { s with sp := ⟨s.sp.val - 1, by omega⟩, pc := s.stack[s.sp.val - 1]'(by omega) } := by
  unfold State.popReturn
  rw [dif_pos h]

/-! ### Keypad -/

/-- A key after a key event. -/
theorem State.keyPressed_setKey (s : State) (k q : Nibble) (b : Bool) :
    (s.setKey k b).keyPressed q = if q = k then b else s.keyPressed q := by
  unfold State.keyPressed State.setKey
  simp only [Vector.getElem_set, ← BitVec.toNat_inj]
  by_cases h : k.toNat = q.toNat <;> simp [h, eq_comm]

theorem State.mem_allKeys (q : Nibble) : q ∈ (List.range 16).map (BitVec.ofNat 4) :=
  List.mem_map.2 ⟨q.toNat, by simpa using q.isLt, by simp⟩

/-- No key is found exactly when none is pressed. -/
theorem State.leastKey_eq_none (s : State) : s.leastKey = none ↔ ∀ q : Nibble, s.keyPressed q = false := by
  unfold State.leastKey
  rw [List.find?_eq_none]
  exact ⟨fun h q => by simpa using h q (State.mem_allKeys q), fun h q _ => by simp [h q]⟩

/-- The key found is pressed and no smaller one is. -/
theorem State.leastKey_eq_some {s : State} {k : Nibble} (h : s.leastKey = some k) :
    s.keyPressed k = true ∧ ∀ q : Nibble, q.toNat < k.toNat → s.keyPressed q = false := by
  unfold State.leastKey at h
  refine ⟨List.find?_some h, fun q hq => ?_⟩
  obtain ⟨-, as, bs, hsplit, has⟩ := List.find?_eq_some_iff_append.1 h
  have hmem : q ∈ as := by
    have hget : ∀ j (hj : j < 16), (as ++ k :: bs)[j]? = some (BitVec.ofNat 4 j) := by
      intro j hj
      rw [← hsplit]
      simp [hj]
    have hlen : as.length < 16 := by
      have := congrArg List.length hsplit
      simp at this
      omega
    have hk := hget as.length hlen
    simp at hk
    have hlk : k.toNat = as.length := by rw [hk]; simp; omega
    have hqa : q.toNat < as.length := by omega
    have hq' := hget q.toNat q.isLt
    rw [List.getElem?_append_left hqa] at hq'
    have : as[q.toNat]? = some q := by simpa using hq'
    exact List.mem_of_getElem? this
  simpa using has q hmem

/-! ### Host operations -/

/-- A host operation that QUIT suppresses. -/
theorem State.unlessQuit_eq (s : State) (op : State → State) :
    s.unlessQuit op = if s.execState = .quit then s else op s := by
  unfold State.unlessQuit
  cases s.execState <;> rfl

/-- The three answers of a load, the length being checked first. -/
theorem loadProgram_cases (bytes : List Byte) (s : State) :
    (3584 < bytes.length ∧ loadProgram bytes s = (.imageTooLarge, s)) ∨
    (bytes.length ≤ 3584 ∧ s.execState = .quit ∧ loadProgram bytes s = (.refusedInQuit, s)) ∨
    (bytes.length ≤ 3584 ∧ s.execState ≠ .quit ∧ loadProgram bytes s = (.success, s.loaded bytes)) := by
  unfold loadProgram
  by_cases h : bytes.length ≤ 3584
  · rw [show imageFits bytes = true from decide_eq_true h]
    cases s.execState <;> simp [h]
  · rw [show imageFits bytes = false from decide_eq_false h]
    exact .inl ⟨by omega, rfl⟩

/-- A byte after an image is loaded: the image, and elsewhere what power-on leaves. -/
theorem State.readByte_loaded (s : State) (bytes : List Byte) (a : Nat) :
    (s.loaded bytes).readByte a =
      if 0x200 ≤ a ∧ a < 0x200 + bytes.length then bytes.getD (a - 0x200) 0#8 else (State.powerOn s.cfg).readByte a :=
  State.readByte_storeBytes (powerOnReset s.cfg s) 0x200 a bytes

/-! ### Completing and raising -/

/-- What a checked action answers: it completes on the advanced state, or its fault is recorded. -/
theorem completeOrRaise_cases (ok : Bool) (code : FaultCode) (info : Word) (s : State) (action : State → State) :
    (ok = true ∧ completeOrRaise ok code info s action = .next ((action s.advance).setStatus .ok)) ∨
    (ok = false ∧ completeOrRaise ok code info s action = .next (s.raise code info)) := by
  cases ok
  · exact .inr ⟨rfl, rfl⟩
  · exact .inl ⟨rfl, rfl⟩

/-- An unimplemented opcode is stepped over or recorded, by the policy. -/
theorem State.unimplementedOp_cases (s : State) (op : Word) :
    (s.cfg.unimplPolicy = .skip ∧ s.unimplementedOp op = s.advance.setStatus .unimplemented) ∨
    (s.cfg.unimplPolicy = .halt ∧ s.unimplementedOp op = s.raise .unimplementedOpcode op) := by
  unfold State.unimplementedOp
  cases h : s.cfg.unimplPolicy
  · exact .inl ⟨rfl, rfl⟩
  · exact .inr ⟨rfl, rfl⟩

end Sys2Proof.Machine
end

