-- ==== Sys2Proof/Laws/Exec.lean ====
section
/-! SUPPORT. What an executed instruction can answer, said once: it completes, or its one fault is recorded. -/

namespace Sys2Proof.Machine

/-- What no completed instruction changes. -/
def KeepsHostSide (s u : State) : Prop :=
  u.keypad = s.keypad ∧ u.execState = s.execState ∧ u.ir = s.ir ∧ u.cfg = s.cfg ∧
  u.faultValid = s.faultValid ∧ u.faultCode = s.faultCode ∧ u.faultPc = s.faultPc ∧ u.faultInfo = s.faultInfo

/-- When an instruction raises which fault, with which datum, in the terms of its own check. -/
def RaisesOn (s : State) (code : FaultCode) (info : Word) : Instr → Prop
  | .call _ => s.sp.val = 16 ∧ code = .stackOverflow ∧ info = s.ir
  | .ret => s.sp.val = 0 ∧ code = .stackUnderflow ∧ info = s.ir
  | .drw _ y n => s.dataInRange (visibleRows (s.reg y) n) = false ∧ code = .memRange ∧ info = s.lowestBad
  | .ldB _ => s.dataInRange 3 = false ∧ code = .memRange ∧ info = s.lowestBad
  | .ldMemVx x | .ldVxMem x => s.dataInRange (x.toNat + 1) = false ∧ code = .memRange ∧ info = s.lowestBad
  | .skp x | .sknp x => isKeyIndex (s.reg x) = false ∧ code = .keyRange ∧ info = zextByte (s.reg x)
  | .cls | .jp _ | .ldI _ | .jpV0 _ => False
  | .seImm _ _ | .sneImm _ _ | .ldImm _ _ | .addImm _ _ | .rnd _ _ => False
  | .seReg _ _ | .sneReg _ _ | .ldReg _ _ | .orReg _ _ | .andReg _ _ | .xorReg _ _ => False
  | .addReg _ _ | .subReg _ _ | .shrReg _ _ | .subnReg _ _ | .shlReg _ _ => False
  | .ldVxDT _ | .ldVxK _ | .ldDTVx _ | .ldSTVx _ | .addI _ | .ldF _ => False

theorem State.awaitPress_keeps (s : State) : KeepsHostSide s s.awaitPress := by
  unfold State.awaitPress
  split <;> simp [KeepsHostSide]

/-- The two answers of an instruction that is an action behind one check. -/
theorem exec_checked {i : Instr} {s : State} {ok : Bool} {code : FaultCode} {info : Word} {action : State → State}
    (he : exec i s = completeOrRaise ok code info s action) (hk : KeepsHostSide s (action s.advance))
    (hr : ok = false → RaisesOn s code info i) :
    (∃ u, exec i s = .next (u.setStatus .ok) ∧ KeepsHostSide s u) ∨
    (∃ code info, exec i s = .next (s.raise code info) ∧ RaisesOn s code info i) :=
  (completeOrRaise_cases ok code info s action).imp (fun h => ⟨_, he.trans h.2, hk⟩)
    (fun h => ⟨_, _, he.trans h.2, hr h.1⟩)

/-- Every instruction completes with status ST_OK, or records its own fault and changes nothing else. -/
theorem exec_cases (i : Instr) (s : State) :
    (∃ u, exec i s = .next (u.setStatus .ok) ∧ KeepsHostSide s u) ∨
    (∃ code info, exec i s = .next (s.raise code info) ∧ RaisesOn s code info i) := by
  cases i with
  | ret =>
    refine exec_checked rfl (by simp [KeepsHostSide]) fun h => ⟨?_, rfl, rfl⟩
    have := of_decide_eq_false h
    omega
  | call nnn =>
    refine exec_checked (execCall.eq_1 nnn s) (by simp [KeepsHostSide]) fun h => ⟨?_, rfl, rfl⟩
    have := of_decide_eq_false h
    omega
  | drw x y n => exact exec_checked (execDrw.eq_1 x y n s) (by simp [KeepsHostSide]) fun h => ⟨h, rfl, rfl⟩
  | ldB x => exact exec_checked (execLdB.eq_1 x s) (by simp [KeepsHostSide]) fun h => ⟨h, rfl, rfl⟩
  | ldMemVx x => exact exec_checked (execLdMemVx.eq_1 x s) (by simp [KeepsHostSide]) fun h => ⟨h, rfl, rfl⟩
  | ldVxMem x => exact exec_checked (execLdVxMem.eq_1 x s) (by simp [KeepsHostSide]) fun h => ⟨h, rfl, rfl⟩
  | skp x => exact exec_checked (execSkp.eq_1 x s) (by simp [KeepsHostSide]) fun h => ⟨h, rfl, rfl⟩
  | sknp x => exact exec_checked (execSknp.eq_1 x s) (by simp [KeepsHostSide]) fun h => ⟨h, rfl, rfl⟩
  | ldVxK x =>
    left
    unfold exec execLdVxK
    dsimp only
    cases s.kwState
    · exact ⟨_, rfl, s.awaitPress_keeps⟩
    · exact ⟨_, rfl, s.awaitPress_keeps⟩
    · dsimp only
      split <;> exact ⟨_, rfl, by simp [KeepsHostSide]⟩
  | _ => exact .inl ⟨_, rfl, by simp [KeepsHostSide]⟩

end Sys2Proof.Machine
end

