-- ==== Sys2Proof/Laws/PerInstr.lean ====
section
/-! SUPPORT. Per instruction: its word lies in its own row of the opcode table (30_encoding R92, R94). -/

namespace Sys2Proof.Laws

/-! ### An opcode under each mask of the table, by its fields -/

theorem and_F000 (op : Word) : op &&& 0xF000#16 = (fieldOP op).setWidth 16 <<< 12 := by
  apply BitVec.eq_of_getLsbD_eq
  intro i hi
  interval_cases i <;> simp [fieldOP]

theorem and_F00F (op : Word) : op &&& 0xF00F#16 = (fieldOP op).setWidth 16 <<< 12 ||| (fieldN op).setWidth 16 := by
  apply BitVec.eq_of_getLsbD_eq
  intro i hi
  interval_cases i <;> simp [fieldOP, fieldN]

theorem and_F0FF (op : Word) : op &&& 0xF0FF#16 = (fieldOP op).setWidth 16 <<< 12 ||| (fieldNN op).setWidth 16 := by
  apply BitVec.eq_of_getLsbD_eq
  intro i hi
  interval_cases i <;> simp [fieldOP, fieldNN]

/-- The instruction is well formed, its row stands in the table, and the row selects its word. -/
def EncodesItsRow.Statement (i : Instr) : Prop :=
  i.wellFormed = true ∧ tableRow i ∈ opcodeTable ∧ (tableRow i).selects (encode i) = true

theorem selects_F000 {r : TableRow} {op : Word} (hm : r.mask = 0xF000#16)
    (h : (fieldOP op).setWidth 16 <<< 12 = r.bits) : r.selects op = true := by
  simp [TableRow.selects, hm, and_F000, h]

theorem selects_F00F {r : TableRow} {op : Word} (hm : r.mask = 0xF00F#16)
    (h : (fieldOP op).setWidth 16 <<< 12 ||| (fieldN op).setWidth 16 = r.bits) : r.selects op = true := by
  simp [TableRow.selects, hm, and_F00F, h]

theorem selects_F0FF {r : TableRow} {op : Word} (hm : r.mask = 0xF0FF#16)
    (h : (fieldOP op).setWidth 16 <<< 12 ||| (fieldNN op).setWidth 16 = r.bits) : r.selects op = true := by
  simp [TableRow.selects, hm, and_F0FF, h]

theorem EncodesItsRow.cls : EncodesItsRow.Statement (.cls) :=
  ⟨rfl, (by decide : tableRow (.cls) ∈ opcodeTable), by decide⟩

theorem EncodesItsRow.ret : EncodesItsRow.Statement (.ret) :=
  ⟨rfl, (by decide : tableRow (.ret) ∈ opcodeTable), by decide⟩

theorem EncodesItsRow.jp (nnn : Addr) : EncodesItsRow.Statement (.jp nnn) :=
  ⟨rfl, (by decide : tableRow (.jp 0) ∈ opcodeTable), selects_F000 rfl (by rw [encode, (fields_NNN _ _).1]; rfl)⟩

theorem EncodesItsRow.call (nnn : Addr) : EncodesItsRow.Statement (.call nnn) :=
  ⟨rfl, (by decide : tableRow (.call 0) ∈ opcodeTable), selects_F000 rfl (by rw [encode, (fields_NNN _ _).1]; rfl)⟩

theorem EncodesItsRow.seImm (x : Nibble) (nn : Byte) : EncodesItsRow.Statement (.seImm x nn) :=
  ⟨rfl, (by decide : tableRow (.seImm 0 0) ∈ opcodeTable), selects_F000 rfl (by rw [encode, (fields_XNN _ _ _).1]; rfl)⟩

theorem EncodesItsRow.sneImm (x : Nibble) (nn : Byte) : EncodesItsRow.Statement (.sneImm x nn) :=
  ⟨rfl, (by decide : tableRow (.sneImm 0 0) ∈ opcodeTable), selects_F000 rfl (by rw [encode, (fields_XNN _ _ _).1]; rfl)⟩

theorem EncodesItsRow.seReg (x y : Nibble) : EncodesItsRow.Statement (.seReg x y) :=
  ⟨rfl, (by decide : tableRow (.seReg 0 0) ∈ opcodeTable), selects_F00F rfl (by rw [encode, (fields_XYN _ _ _ _).1, (fields_XYN _ _ _ _).2.2.2]; rfl)⟩

theorem EncodesItsRow.ldImm (x : Nibble) (nn : Byte) : EncodesItsRow.Statement (.ldImm x nn) :=
  ⟨rfl, (by decide : tableRow (.ldImm 0 0) ∈ opcodeTable), selects_F000 rfl (by rw [encode, (fields_XNN _ _ _).1]; rfl)⟩

theorem EncodesItsRow.addImm (x : Nibble) (nn : Byte) : EncodesItsRow.Statement (.addImm x nn) :=
  ⟨rfl, (by decide : tableRow (.addImm 0 0) ∈ opcodeTable), selects_F000 rfl (by rw [encode, (fields_XNN _ _ _).1]; rfl)⟩

theorem EncodesItsRow.ldReg (x y : Nibble) : EncodesItsRow.Statement (.ldReg x y) :=
  ⟨rfl, (by decide : tableRow (.ldReg 0 0) ∈ opcodeTable), selects_F00F rfl (by rw [encode, (fields_XYN _ _ _ _).1, (fields_XYN _ _ _ _).2.2.2]; rfl)⟩

theorem EncodesItsRow.orReg (x y : Nibble) : EncodesItsRow.Statement (.orReg x y) :=
  ⟨rfl, (by decide : tableRow (.orReg 0 0) ∈ opcodeTable), selects_F00F rfl (by rw [encode, (fields_XYN _ _ _ _).1, (fields_XYN _ _ _ _).2.2.2]; rfl)⟩

theorem EncodesItsRow.andReg (x y : Nibble) : EncodesItsRow.Statement (.andReg x y) :=
  ⟨rfl, (by decide : tableRow (.andReg 0 0) ∈ opcodeTable), selects_F00F rfl (by rw [encode, (fields_XYN _ _ _ _).1, (fields_XYN _ _ _ _).2.2.2]; rfl)⟩

theorem EncodesItsRow.xorReg (x y : Nibble) : EncodesItsRow.Statement (.xorReg x y) :=
  ⟨rfl, (by decide : tableRow (.xorReg 0 0) ∈ opcodeTable), selects_F00F rfl (by rw [encode, (fields_XYN _ _ _ _).1, (fields_XYN _ _ _ _).2.2.2]; rfl)⟩

theorem EncodesItsRow.addReg (x y : Nibble) : EncodesItsRow.Statement (.addReg x y) :=
  ⟨rfl, (by decide : tableRow (.addReg 0 0) ∈ opcodeTable), selects_F00F rfl (by rw [encode, (fields_XYN _ _ _ _).1, (fields_XYN _ _ _ _).2.2.2]; rfl)⟩

theorem EncodesItsRow.subReg (x y : Nibble) : EncodesItsRow.Statement (.subReg x y) :=
  ⟨rfl, (by decide : tableRow (.subReg 0 0) ∈ opcodeTable), selects_F00F rfl (by rw [encode, (fields_XYN _ _ _ _).1, (fields_XYN _ _ _ _).2.2.2]; rfl)⟩

theorem EncodesItsRow.shrReg (x y : Nibble) : EncodesItsRow.Statement (.shrReg x y) :=
  ⟨rfl, (by decide : tableRow (.shrReg 0 0) ∈ opcodeTable), selects_F00F rfl (by rw [encode, (fields_XYN _ _ _ _).1, (fields_XYN _ _ _ _).2.2.2]; rfl)⟩

theorem EncodesItsRow.subnReg (x y : Nibble) : EncodesItsRow.Statement (.subnReg x y) :=
  ⟨rfl, (by decide : tableRow (.subnReg 0 0) ∈ opcodeTable), selects_F00F rfl (by rw [encode, (fields_XYN _ _ _ _).1, (fields_XYN _ _ _ _).2.2.2]; rfl)⟩

theorem EncodesItsRow.shlReg (x y : Nibble) : EncodesItsRow.Statement (.shlReg x y) :=
  ⟨rfl, (by decide : tableRow (.shlReg 0 0) ∈ opcodeTable), selects_F00F rfl (by rw [encode, (fields_XYN _ _ _ _).1, (fields_XYN _ _ _ _).2.2.2]; rfl)⟩

theorem EncodesItsRow.sneReg (x y : Nibble) : EncodesItsRow.Statement (.sneReg x y) :=
  ⟨rfl, (by decide : tableRow (.sneReg 0 0) ∈ opcodeTable), selects_F00F rfl (by rw [encode, (fields_XYN _ _ _ _).1, (fields_XYN _ _ _ _).2.2.2]; rfl)⟩

theorem EncodesItsRow.ldI (nnn : Addr) : EncodesItsRow.Statement (.ldI nnn) :=
  ⟨rfl, (by decide : tableRow (.ldI 0) ∈ opcodeTable), selects_F000 rfl (by rw [encode, (fields_NNN _ _).1]; rfl)⟩

theorem EncodesItsRow.jpV0 (nnn : Addr) : EncodesItsRow.Statement (.jpV0 nnn) :=
  ⟨rfl, (by decide : tableRow (.jpV0 0) ∈ opcodeTable), selects_F000 rfl (by rw [encode, (fields_NNN _ _).1]; rfl)⟩

theorem EncodesItsRow.rnd (x : Nibble) (nn : Byte) : EncodesItsRow.Statement (.rnd x nn) :=
  ⟨rfl, (by decide : tableRow (.rnd 0 0) ∈ opcodeTable), selects_F000 rfl (by rw [encode, (fields_XNN _ _ _).1]; rfl)⟩

theorem EncodesItsRow.drw (x y n : Nibble) : EncodesItsRow.Statement (.drw x y n) :=
  ⟨rfl, (by decide : tableRow (.drw 0 0 0) ∈ opcodeTable), selects_F000 rfl (by rw [encode, (fields_XYN _ _ _ _).1]; rfl)⟩

theorem EncodesItsRow.skp (x : Nibble) : EncodesItsRow.Statement (.skp x) :=
  ⟨rfl, (by decide : tableRow (.skp 0) ∈ opcodeTable), selects_F0FF rfl (by rw [encode, (fields_XNN _ _ _).1, (fields_XNN _ _ _).2.2]; rfl)⟩

theorem EncodesItsRow.sknp (x : Nibble) : EncodesItsRow.Statement (.sknp x) :=
  ⟨rfl, (by decide : tableRow (.sknp 0) ∈ opcodeTable), selects_F0FF rfl (by rw [encode, (fields_XNN _ _ _).1, (fields_XNN _ _ _).2.2]; rfl)⟩

theorem EncodesItsRow.ldVxDT (x : Nibble) : EncodesItsRow.Statement (.ldVxDT x) :=
  ⟨rfl, (by decide : tableRow (.ldVxDT 0) ∈ opcodeTable), selects_F0FF rfl (by rw [encode, (fields_XNN _ _ _).1, (fields_XNN _ _ _).2.2]; rfl)⟩

theorem EncodesItsRow.ldVxK (x : Nibble) : EncodesItsRow.Statement (.ldVxK x) :=
  ⟨rfl, (by decide : tableRow (.ldVxK 0) ∈ opcodeTable), selects_F0FF rfl (by rw [encode, (fields_XNN _ _ _).1, (fields_XNN _ _ _).2.2]; rfl)⟩

theorem EncodesItsRow.ldDTVx (x : Nibble) : EncodesItsRow.Statement (.ldDTVx x) :=
  ⟨rfl, (by decide : tableRow (.ldDTVx 0) ∈ opcodeTable), selects_F0FF rfl (by rw [encode, (fields_XNN _ _ _).1, (fields_XNN _ _ _).2.2]; rfl)⟩

theorem EncodesItsRow.ldSTVx (x : Nibble) : EncodesItsRow.Statement (.ldSTVx x) :=
  ⟨rfl, (by decide : tableRow (.ldSTVx 0) ∈ opcodeTable), selects_F0FF rfl (by rw [encode, (fields_XNN _ _ _).1, (fields_XNN _ _ _).2.2]; rfl)⟩

theorem EncodesItsRow.addI (x : Nibble) : EncodesItsRow.Statement (.addI x) :=
  ⟨rfl, (by decide : tableRow (.addI 0) ∈ opcodeTable), selects_F0FF rfl (by rw [encode, (fields_XNN _ _ _).1, (fields_XNN _ _ _).2.2]; rfl)⟩

theorem EncodesItsRow.ldF (x : Nibble) : EncodesItsRow.Statement (.ldF x) :=
  ⟨rfl, (by decide : tableRow (.ldF 0) ∈ opcodeTable), selects_F0FF rfl (by rw [encode, (fields_XNN _ _ _).1, (fields_XNN _ _ _).2.2]; rfl)⟩

theorem EncodesItsRow.ldB (x : Nibble) : EncodesItsRow.Statement (.ldB x) :=
  ⟨rfl, (by decide : tableRow (.ldB 0) ∈ opcodeTable), selects_F0FF rfl (by rw [encode, (fields_XNN _ _ _).1, (fields_XNN _ _ _).2.2]; rfl)⟩

theorem EncodesItsRow.ldMemVx (x : Nibble) : EncodesItsRow.Statement (.ldMemVx x) :=
  ⟨rfl, (by decide : tableRow (.ldMemVx 0) ∈ opcodeTable), selects_F0FF rfl (by rw [encode, (fields_XNN _ _ _).1, (fields_XNN _ _ _).2.2]; rfl)⟩

theorem EncodesItsRow.ldVxMem (x : Nibble) : EncodesItsRow.Statement (.ldVxMem x) :=
  ⟨rfl, (by decide : tableRow (.ldVxMem 0) ∈ opcodeTable), selects_F0FF rfl (by rw [encode, (fields_XNN _ _ _).1, (fields_XNN _ _ _).2.2]; rfl)⟩

end Sys2Proof.Laws
end

