-- ==== Sys2Proof/Laws/Raster.lean ====
section
/-! SUPPORT. What the sprite rasteriser does to one cell, and when it reports a collision. -/

namespace Sys2Proof.Machine

/-- A cell after a cell of the grid is set. -/
theorem cellAt_setCell (fb : Framebuffer) (x y u v : Nat) (b : Bool) (hx : x < 64) (hy : y < 32) :
    cellAt (setCell fb x y b) u v = if u = x ∧ v = y then b else cellAt fb u v := by
  unfold cellAt setCell
  by_cases hv : v = y
  · subst hv
    by_cases hu : u = x
    · subst hu; simp [Vector.getD, hx, hy]
    · have hux : x ≠ u := fun e => hu e.symm
      by_cases h64 : u < 64 <;> simp [Vector.getD, hy, hu, h64, hux]
  · have hvy : y ≠ v := fun e => hv e.symm
    by_cases h32 : v < 32 <;> simp [Vector.getD, h32, hv, hvy]

/-- Toggling flips the one cell and counts a collision when it was on. -/
theorem toggleCell_spec (p : Framebuffer × Bool) (x y : Nat) (hx : x < 64) (hy : y < 32) :
    (∀ u v, cellAt (toggleCell p x y).1 u v =
      (cellAt p.1 u v ^^ (decide (u = x) && decide (v = y)))) ∧
    (toggleCell p x y).2 = (p.2 || cellAt p.1 x y) := by
  unfold toggleCell
  by_cases h : cellAt p.1 x y = true
  · rw [if_pos h]
    refine ⟨fun u v => ?_, by simp [h]⟩
    rw [cellAt_setCell _ _ _ _ _ _ hx hy]
    by_cases huv : u = x ∧ v = y
    · obtain ⟨rfl, rfl⟩ := huv; simp [h]
    · rw [if_neg huv]
      have : (decide (u = x) && decide (v = y)) = false := by simpa using huv
      simp [this]
  · rw [if_neg h]
    refine ⟨fun u v => ?_, by simp [h]⟩
    rw [cellAt_setCell _ _ _ _ _ _ hx hy]
    by_cases huv : u = x ∧ v = y
    · obtain ⟨rfl, rfl⟩ := huv; simp [h]
    · rw [if_neg huv]
      have : (decide (u = x) && decide (v = y)) = false := by simpa using huv
      simp [this]

theorem drawRow_succ (b : Byte) (x0 y cols : Nat) (p : Framebuffer × Bool) :
    drawRow b x0 y (cols + 1) p =
      if spriteBit b cols then toggleCell (drawRow b x0 y cols p) (x0 + cols) y else drawRow b x0 y cols p := by
  simp [drawRow, List.range_succ]

theorem coversColumn_succ (b : Byte) (x0 cols u : Nat) :
    coversColumn b x0 (cols + 1) u =
      (coversColumn b x0 cols u || (decide (u = x0 + cols) && spriteBit b cols)) := by
  unfold coversColumn spriteBit
  by_cases h : u = x0 + cols
  · subst h; simp
  · by_cases h1 : x0 ≤ u <;> by_cases h2 : u < x0 + cols <;> by_cases h3 : u < x0 + (cols + 1) <;>
      first
      | omega
      | simp [h, h1, h2, h3]

/-- One row of a sprite: exactly the covered cells of the row flip; a collision is a covered cell that was on. -/
theorem drawRow_spec (b : Byte) (x0 y cols : Nat) (p : Framebuffer × Bool) (hx : x0 + cols ≤ 64) (hy : y < 32) :
    (∀ u v, cellAt (drawRow b x0 y cols p).1 u v =
      (cellAt p.1 u v ^^ (decide (v = y) && coversColumn b x0 cols u))) ∧
    ((drawRow b x0 y cols p).2 = true ↔
      p.2 = true ∨ ∃ u, coversColumn b x0 cols u = true ∧ cellAt p.1 u y = true) := by
  induction cols with
  | zero =>
    have h0 : ∀ u, coversColumn b x0 0 u = false := by
      intro u; unfold coversColumn
      by_cases h1 : x0 ≤ u
      · simp [show ¬ u < x0 by omega]
      · simp [h1]
    simp [drawRow, h0]
  | succ n ih =>
    obtain ⟨ih1, ih2⟩ := ih (by omega)
    rw [drawRow_succ]
    have hout : coversColumn b x0 n (x0 + n) = false := by simp [coversColumn]
    by_cases hs : spriteBit b n = true
    · rw [if_pos hs]
      obtain ⟨t1, t2⟩ := toggleCell_spec (drawRow b x0 y n p) (x0 + n) y (by omega) hy
      refine ⟨fun u v => ?_, ?_⟩
      · rw [t1, ih1, coversColumn_succ, hs]
        by_cases hu : u = x0 + n
        · subst hu; simp [hout]
        · simp [hu]
      · rw [t2, Bool.or_eq_true, ih2, ih1]
        simp only [hout, Bool.and_false, Bool.xor_false]
        constructor
        · rintro ((h | ⟨u, hu, hc⟩) | h)
          · exact .inl h
          · exact .inr ⟨u, by rw [coversColumn_succ, hu]; simp, hc⟩
          · exact .inr ⟨x0 + n, by rw [coversColumn_succ]; simp [hs], h⟩
        · rintro (h | ⟨u, hu, hc⟩)
          · exact .inl (.inl h)
          · rw [coversColumn_succ, Bool.or_eq_true] at hu
            rcases hu with hu | hu
            · exact .inl (.inr ⟨u, hu, hc⟩)
            · have : u = x0 + n := by simp at hu; exact hu.1
              exact .inr (this ▸ hc)
    · rw [if_neg hs]
      have hs' : spriteBit b n = false := by simpa using hs
      have hc : ∀ u, coversColumn b x0 (n + 1) u = coversColumn b x0 n u := by
        intro u; rw [coversColumn_succ, hs']; simp
      simp only [hc]
      exact ⟨ih1, ih2⟩

theorem coversCell_succ (row : Nat → Byte) (x0 y0 cols r u v : Nat) :
    coversCell row x0 y0 cols (r + 1) u v =
      (coversCell row x0 y0 cols r u v || (decide (v = y0 + r) && coversColumn (row r) x0 cols u)) := by
  unfold coversCell
  by_cases h : v = y0 + r
  · subst h; simp
  · by_cases h1 : y0 ≤ v <;> by_cases h2 : v < y0 + r <;> by_cases h3 : v < y0 + (r + 1) <;>
      first
      | omega
      | simp [h, h1, h2, h3]

/-- The rows of a sprite: exactly the covered cells flip; a collision is a covered cell that was on. -/
theorem drawRows_spec (row : Nat → Byte) (x0 y0 cols rows : Nat) (p : Framebuffer × Bool)
    (hx : x0 + cols ≤ 64) (hy : y0 + rows ≤ 32) :
    (∀ u v, cellAt (drawRows row x0 y0 cols rows p).1 u v =
      (cellAt p.1 u v ^^ coversCell row x0 y0 cols rows u v)) ∧
    ((drawRows row x0 y0 cols rows p).2 = true ↔
      p.2 = true ∨ ∃ u v, coversCell row x0 y0 cols rows u v = true ∧ cellAt p.1 u v = true) := by
  induction rows with
  | zero =>
    have h0 : ∀ u v, coversCell row x0 y0 cols 0 u v = false := by
      intro u v; unfold coversCell
      by_cases h1 : y0 ≤ v
      · simp [show ¬ v < y0 by omega]
      · simp [h1]
    simp [drawRows, h0]
  | succ r ih =>
    obtain ⟨ih1, ih2⟩ := ih (by omega)
    obtain ⟨d1, d2⟩ := drawRow_spec (row r) x0 (y0 + r) cols (drawRows row x0 y0 cols r p) hx (by omega)
    have hout : ∀ u, coversCell row x0 y0 cols r u (y0 + r) = false := by intro u; simp [coversCell]
    refine ⟨fun u v => ?_, ?_⟩
    · rw [drawRows, d1, ih1, coversCell_succ]
      by_cases hv : v = y0 + r
      · subst hv; simp [hout]
      · simp [hv]
    · rw [drawRows, d2, ih2]
      simp only [ih1, hout, Bool.xor_false]
      constructor
      · rintro ((h | ⟨u, v, hc, hon⟩) | ⟨u, hc, hon⟩)
        · exact .inl h
        · exact .inr ⟨u, v, by rw [coversCell_succ, hc]; simp, hon⟩
        · exact .inr ⟨u, y0 + r, by rw [coversCell_succ]; simp [hc], hon⟩
      · rintro (h | ⟨u, v, hc, hon⟩)
        · exact .inl (.inl h)
        · rw [coversCell_succ, Bool.or_eq_true] at hc
          rcases hc with hc | hc
          · exact .inl (.inr ⟨u, v, hc, hon⟩)
          · rw [Bool.and_eq_true] at hc
            have : v = y0 + r := by simpa using hc.1
            exact .inr ⟨u, hc.2, this ▸ hon⟩

/-- The drawn columns and rows lie on the screen. -/
theorem visible_on_screen (vx vy : Byte) (n : Nibble) :
    originX vx + visibleCols vx ≤ 64 ∧ originY vy + visibleRows vy n ≤ 32 := by
  unfold visibleCols visibleRows originX originY screenWidth screenHeight
  omega

/-- The sprite of DXYN: exactly the covered cells flip, and a collision is a covered cell that was on. -/
theorem State.drawSprite_spec (s : State) (vx vy : Byte) (n : Nibble) :
    (∀ u v, cellAt (s.drawSprite vx vy n).1 u v = (cellAt s.fb u v ^^
      coversCell (fun r => s.readByte (s.I.toNat + r)) (originX vx) (originY vy) (visibleCols vx) (visibleRows vy n)
        u v)) ∧
    ((s.drawSprite vx vy n).2 = true ↔ ∃ u v,
      coversCell (fun r => s.readByte (s.I.toNat + r)) (originX vx) (originY vy) (visibleCols vx) (visibleRows vy n)
        u v = true ∧ cellAt s.fb u v = true) := by
  have h := drawRows_spec (fun r => s.readByte (s.I.toNat + r)) (originX vx) (originY vy) (visibleCols vx)
    (visibleRows vy n) (s.fb, false) (visible_on_screen vx vy n).1 (visible_on_screen vx vy n).2
  exact ⟨h.1, h.2.trans (by simp)⟩

end Sys2Proof.Machine
end

