-- ==== Sys2Proof/Laws/Step.lean ====
section
/-! SUPPORT. What the step cycle can do, said once, over any way of running the decoded instruction. -/

namespace Sys2Proof.Machine

/-- The cycle's cases: the three gates, the fetch fault, an instruction, an unimplemented opcode. -/
theorem cycle_cases (run : Instr → State → Host.Outcome State Fault Refusal) (s : State) :
    (s.execState = .quit ∧ cycle run s = .next s) ∨
    (s.execState = .paused ∧ cycle run s = .next (s.setStatus .suppressed)) ∨
    (s.execState = .running ∧ s.faultValid = true ∧ cycle run s = .next (s.setStatus .faulted)) ∨
    (s.execState = .running ∧ s.faultValid = false ∧ s.fetchable = false ∧
      cycle run s = .next (s.raise .fetchRange s.pc)) ∨
    (s.execState = .running ∧ s.faultValid = false ∧ s.fetchable = true ∧
      ∃ i, decode s.fetchWord = .instr i ∧ cycle run s = run i (s.latchIr s.fetchWord)) ∨
    (s.execState = .running ∧ s.faultValid = false ∧ s.fetchable = true ∧
      decode s.fetchWord = .unimplemented s.fetchWord ∧
      cycle run s = .next ((s.latchIr s.fetchWord).unimplementedOp s.fetchWord)) := by
  unfold cycle fetchDecodeExecute
  cases he : s.execState with
  | quit => exact .inl ⟨rfl, rfl⟩
  | paused => exact .inr (.inl ⟨rfl, rfl⟩)
  | running =>
    cases hf : s.faultValid with
    | true => exact .inr (.inr (.inl ⟨rfl, rfl, rfl⟩))
    | false =>
      cases hp : s.fetchable with
      | false => exact .inr (.inr (.inr (.inl ⟨rfl, rfl, rfl, rfl⟩)))
      | true =>
        cases hd : decode s.fetchWord with
        | instr i => exact .inr (.inr (.inr (.inr (.inl ⟨rfl, rfl, rfl, i, rfl, by simp⟩))))
        | unimplemented w =>
          obtain rfl := decode_unimplemented hd
          exact .inr (.inr (.inr (.inr (.inr ⟨rfl, rfl, rfl, rfl, by simp⟩))))

end Sys2Proof.Machine
end

