-- ==== Sys2Proof/Tests/Slice0.lean ====
section
/-! SUPPORT. Tests of one step each, with results from 95_test_vectors (the vector is named) or worked out from the
rule named, and for every obligation with hypotheses a witness that meets them, one per clause. -/

namespace Sys2Proof.Tests

open Sys2Proof.Machine

/-! ### Helpers -/

/-- The state an answer carries, none for a stop. -/
def nextOf (o : Host.Outcome State Fault Refusal) : Option State :=
  match o with
  | .next t => some t
  | .fault _ => none
  | .refused _ => none

/-- One step with a word placed at `pc`. -/
def ran (w : Nat) (s : State) : Option State := nextOf (step (s.withFetchWord 16 w))

/-- One execution of an instruction. -/
def did (i : Instr) (s : State) : Option State := nextOf (exec i s)

/-- Registers set in turn. -/
def regs (vs : List (Nibble × Byte)) (s : State) : State := vs.foldl (fun u p => u.setReg p.1 p.2) s

/-- A register of an answer. -/
def regOf (x : Nibble) (o : Option State) : Option Byte := o.map (fun t => t.reg x)

/-- VX and VF of an answer. -/
def pairOf (x : Nibble) (o : Option State) : Option (Byte × Byte) := o.map (fun t => (t.reg x, t.reg 0xF#4))

/-- The program counter of an answer. -/
def pcOf (o : Option State) : Option Word := o.map (fun t => t.pc)

/-- The index register of an answer. -/
def indexOf (o : Option State) : Option Word := o.map (fun t => t.I)

/-- The status of an answer. -/
def statusOf (o : Option State) : Option StepStatus := o.map (fun t => t.status)

/-- `n` bytes of memory of an answer. -/
def bytesOf (a n : Nat) (o : Option State) : Option (List Byte) :=
  o.map (fun t => (List.range n).map (fun k => t.readByte (a + k)))

/-- The fault record of an answer, with its number as 60_exceptions R285 gives it. -/
def faultOf (o : Option State) : Option (Nat × Word × Word) :=
  o.map (fun t => ((faultCodeNumber t.faultCode).toNat, t.faultPc, t.faultInfo))

/-- The key-wait fields of an answer. -/
def waitOf (o : Option State) : Option (KwState × Nibble × Word) := o.map (fun t => (t.kwState, t.kwIdx, t.pc))

/-- The cells of a window of an answer that are on. -/
def cellsOf (x0 y0 cols rows : Nat) (o : Option State) : Option (List (Nat × Nat)) :=
  o.map (fun t => (List.range rows).flatMap (fun r =>
    ((List.range cols).filter (fun c => cellAt t.fb (x0 + c) (y0 + r))).map (fun c => (x0 + c, y0 + r))))

/-- Reset, under other parameters. -/
def underConfig (c : Config) : State := State.powerOn c

/-- Reset. -/
def base : State := State.reset

/-- A program counter set. -/
def at_ (pc : Word) (s : State) : State := { s with pc := pc }

/-- Under `UNIMPL_POLICY = halt`. -/
def haltBase : State := underConfig { defaultConfig with unimplPolicy := .halt }

/-- Under `SHIFT_SRC = X`. -/
def shiftXBase : State := underConfig { defaultConfig with shiftSrc := .x }

/-- Under `LOADSTORE_INC_I = true`. -/
def incBase : State := underConfig { defaultConfig with loadStoreIncI := true }

/-- Under `FONT_BASE = 0x050`. -/
def font50 : State := underConfig { defaultConfig with fontBase := 0x050#16 }

/-- A recorded stack underflow. -/
def faultedBase : State :=
  { base with faultValid := true, faultCode := .stackUnderflow, faultPc := 0x200#16, faultInfo := 0x00EE#16 }

/-! ### Well-formedness -/

/-- 00_scope R6: the defaults are legal. -/
theorem test_wf_default : defaultConfig.wellFormed = true := by decide
/-- 00_scope R6: 0x1B0 + 80 = 0x200. -/
theorem test_wf_font_base_highest :
    ({ defaultConfig with fontBase := 0x1B0#16 } : Config).wellFormed = true := by decide
/-- 00_scope R6: refused, one address too high. -/
theorem test_wf_font_base_too_high :
    ({ defaultConfig with fontBase := 0x1B1#16 } : Config).wellFormed = false := by decide
/-- 20_memory R63: refused, not 80 bytes. -/
theorem test_wf_font_data_short :
    ({ defaultConfig with fontData := [0xF0#8] } : Config).wellFormed = false := by decide
/-- 20_memory R63: refused, 81 bytes. -/
theorem test_wf_font_data_long :
    ({ defaultConfig with fontData := defaultFontData ++ [0#8] } : Config).wellFormed = false := by decide
/-- 70_reset_and_hazards R321: the longest image. -/
theorem test_wf_image_longest :
    imageFits (List.replicate 3584 0#8) = true := decide_eq_true (Nat.le_of_eq List.length_replicate)
/-- 70_reset_and_hazards R322: refused. -/
theorem test_wf_image_too_long :
    imageFits (List.replicate 3585 0#8) = false := decide_eq_false (by rw [List.length_replicate]; decide)
/-- 30_encoding R93: every operand value is legal. -/
theorem test_wf_instruction : (Instr.drw 0xF#4 0xF#4 0xF#4).wellFormed = true := by decide

/-! ### Decoding: a word of every row, written out from the formats of 30_encoding R92 and R94 -/

theorem test_decode_cls : decodeTableWord 16 0b0000_0000_1110_0000 = some (.cls) := by decide
theorem test_decode_ret : decodeTableWord 16 0b0000_0000_1110_1110 = some (.ret) := by decide
theorem test_decode_jp : decodeTableWord 16 0b0001_1010_1011_1100 = some (.jp 0xABC) := by decide
theorem test_decode_call : decodeTableWord 16 0b0010_0010_0000_1000 = some (.call 0x208) := by decide
theorem test_decode_seImm : decodeTableWord 16 0b0011_0011_0010_1010 = some (.seImm 3 0x2A) := by decide
theorem test_decode_sneImm : decodeTableWord 16 0b0100_0011_0010_1011 = some (.sneImm 3 0x2B) := by decide
theorem test_decode_seReg : decodeTableWord 16 0b0101_0001_0010_0000 = some (.seReg 1 2) := by decide
theorem test_decode_ldImm : decodeTableWord 16 0b0110_0011_0010_1010 = some (.ldImm 3 0x2A) := by decide
theorem test_decode_addImm : decodeTableWord 16 0b0111_0011_0000_0001 = some (.addImm 3 0x01) := by decide
theorem test_decode_ldReg : decodeTableWord 16 0b1000_0001_0010_0000 = some (.ldReg 1 2) := by decide
theorem test_decode_orReg : decodeTableWord 16 0b1000_0001_0010_0001 = some (.orReg 1 2) := by decide
theorem test_decode_andReg : decodeTableWord 16 0b1000_0001_0010_0010 = some (.andReg 1 2) := by decide
theorem test_decode_xorReg : decodeTableWord 16 0b1000_0001_0010_0011 = some (.xorReg 1 2) := by decide
theorem test_decode_addReg : decodeTableWord 16 0b1000_1010_1011_0100 = some (.addReg 0xA 0xB) := by decide
theorem test_decode_subReg : decodeTableWord 16 0b1000_0001_0010_0101 = some (.subReg 1 2) := by decide
theorem test_decode_shrReg : decodeTableWord 16 0b1000_0001_0010_0110 = some (.shrReg 1 2) := by decide
theorem test_decode_subnReg : decodeTableWord 16 0b1000_0001_0010_0111 = some (.subnReg 1 2) := by decide
theorem test_decode_shlReg : decodeTableWord 16 0b1000_0001_0010_1110 = some (.shlReg 1 2) := by decide
theorem test_decode_sneReg : decodeTableWord 16 0b1001_0001_0010_0000 = some (.sneReg 1 2) := by decide
theorem test_decode_ldI : decodeTableWord 16 0b1010_0010_0010_1010 = some (.ldI 0x22A) := by decide
theorem test_decode_jpV0 : decodeTableWord 16 0b1011_0011_0000_0000 = some (.jpV0 0x300) := by decide
theorem test_decode_rnd : decodeTableWord 16 0b1100_0011_0000_1111 = some (.rnd 3 0x0F) := by decide
theorem test_decode_drw : decodeTableWord 16 0b1101_0001_0010_0101 = some (.drw 1 2 5) := by decide
theorem test_decode_skp : decodeTableWord 16 0b1110_0100_1001_1110 = some (.skp 4) := by decide
theorem test_decode_sknp : decodeTableWord 16 0b1110_0100_1010_0001 = some (.sknp 4) := by decide
theorem test_decode_ldVxDT : decodeTableWord 16 0b1111_0011_0000_0111 = some (.ldVxDT 3) := by decide
theorem test_decode_ldVxK : decodeTableWord 16 0b1111_0010_0000_1010 = some (.ldVxK 2) := by decide
theorem test_decode_ldDTVx : decodeTableWord 16 0b1111_0011_0001_0101 = some (.ldDTVx 3) := by decide
theorem test_decode_ldSTVx : decodeTableWord 16 0b1111_0011_0001_1000 = some (.ldSTVx 3) := by decide
theorem test_decode_addI : decodeTableWord 16 0b1111_0010_0001_1110 = some (.addI 2) := by decide
theorem test_decode_ldF : decodeTableWord 16 0b1111_0000_0010_1001 = some (.ldF 0) := by decide
theorem test_decode_ldB : decodeTableWord 16 0b1111_0000_0011_0011 = some (.ldB 0) := by decide
theorem test_decode_ldMemVx : decodeTableWord 16 0b1111_0010_0101_0101 = some (.ldMemVx 2) := by decide
theorem test_decode_ldVxMem : decodeTableWord 16 0b1111_0010_0110_0101 = some (.ldVxMem 2) := by decide
/-- T-ENC-3: the high byte is at the lower address. -/
theorem test_decode_bytes : decodeBytes [0x12#8, 0x34#8, 0x56#8] = some (.instr (.jp 0x234), [0x56#8]) := by decide

/-- 30_encoding R97, R100, and the words of 95_test_vectors section 2.7. -/
theorem test_decode_unimplemented :
    [0x0000, 0x0123, 0x00E1, 0x00FF, 0x01E0, 0x5121, 0x812F, 0x9121, 0xE09F, 0xF000, 0xF01F, 0xF075, 0xFFFF].map
      (decodeTableWord 16) = List.replicate 13 none := by decide

/-! ### Fetch and unimplemented opcodes -/

/-- T-ENC-4. -/
theorem test_enc4_bytes_exchanged : pcOf (ran 0x3412 base) = some 0x202#16 := by decide
/-- T-ENC-5. -/
theorem test_enc5_odd_address :
    (ran 0x632A (at_ 0x201#16 base)).map (fun t => (t.reg 3#4, t.pc)) = some (0x2A#8, 0x203#16) := by decide
/-- T-ENC-6. -/
theorem test_enc6_last_fetchable :
    (ran 0x6005 (at_ 0xFFE#16 base)).map (fun t => (t.reg 0#4, t.pc)) = some (5#8, 0x1000#16) := by decide
/-- T-ENC-7. -/
theorem test_enc7_fetch_range :
    faultOf (nextOf (step (at_ 0xFFF#16 base))) = some (1, 0x0FFF#16, 0x0FFF#16) := by decide
/-- T-UN-1. -/
theorem test_un1_skip :
    (ran 0x0000 base).map (fun t => (t.pc, t.status)) = some (0x202#16, .unimplemented) := by decide
/-- T-UN-14. -/
theorem test_un14_halt : faultOf (ran 0x0000 haltBase) = some (6, 0x0200#16, 0x0000#16) := by decide
/-- T-ALU-45. -/
theorem test_alu45_halt : faultOf (ran 0x812F haltBase) = some (6, 0x0200#16, 0x812F#16) := by decide

/-! ### Control transfer and skips -/

/-- T-CF-1. -/
theorem test_cf1_ret :
    (ran 0x00EE (at_ 0x20E#16 { base with sp := 1, stack := base.stack.set 0 0x0202#16 })).map
      (fun t => (t.sp, t.pc)) = some (0, 0x202#16) := by decide
/-- T-CF-2. -/
theorem test_cf2_ret_underflow : faultOf (ran 0x00EE base) = some (3, 0x0200#16, 0x00EE#16) := by decide
/-- T-CF-3. -/
theorem test_cf3_jp : pcOf (ran 0x1ABC base) = some 0xABC#16 := by decide
/-- T-CF-7. -/
theorem test_cf7_call_sixteenth :
    (ran 0x2300 (at_ 0x250#16 { base with sp := 15 })).map (fun t => (t.stack[15], t.sp, t.pc)) =
      some (0x0252#16, 16, 0x300#16) := by decide
/-- T-CF-8. -/
theorem test_cf8_call_overflow :
    (ran 0x2300 (at_ 0x250#16 { base with sp := 16 })).map
      (fun t => (faultCodeNumber t.faultCode, t.faultPc, t.faultInfo, t.sp)) = some (2, 0x0250#16, 0x2300#16, 16) := by decide
/-- T-CF-9. -/
theorem test_cf9_se_imm : pcOf (ran 0x332A (at_ 0x202#16 (regs [(3#4, 0x2A#8)] base))) = some 0x206#16 := by decide
/-- T-CF-10. -/
theorem test_cf10_se_imm : pcOf (ran 0x332B (at_ 0x202#16 (regs [(3#4, 0x2A#8)] base))) = some 0x204#16 := by decide
/-- T-CF-11. -/
theorem test_cf11_sne_imm : pcOf (ran 0x432A (at_ 0x202#16 (regs [(3#4, 0x2A#8)] base))) = some 0x204#16 := by decide
/-- T-CF-12. -/
theorem test_cf12_sne_imm : pcOf (ran 0x432B (at_ 0x202#16 (regs [(3#4, 0x2A#8)] base))) = some 0x206#16 := by decide
/-- T-CF-13. -/
theorem test_cf13_se_reg :
    pcOf (ran 0x5120 (at_ 0x300#16 (regs [(1#4, 7#8), (2#4, 7#8)] base))) = some 0x304#16 := by decide
/-- T-CF-14. -/
theorem test_cf14_se_reg :
    pcOf (ran 0x5120 (at_ 0x300#16 (regs [(1#4, 7#8), (2#4, 8#8)] base))) = some 0x302#16 := by decide
/-- T-CF-17. -/
theorem test_cf17_sne_reg :
    pcOf (ran 0x9120 (at_ 0x300#16 (regs [(1#4, 7#8), (2#4, 8#8)] base))) = some 0x304#16 := by decide
/-- T-CF-18. -/
theorem test_cf18_sne_reg :
    pcOf (ran 0x9120 (at_ 0x300#16 (regs [(1#4, 7#8), (2#4, 7#8)] base))) = some 0x302#16 := by decide
/-- T-CF-21. -/
theorem test_cf21_jp_v0 :
    pcOf (ran 0xB234 (at_ 0x200#16 (regs [(0#4, 0x10#8), (2#4, 0x80#8)] base))) = some 0x244#16 := by decide
/-- T-CF-22. -/
theorem test_cf22_jp_v0_high :
    pcOf (ran 0xBFFF (at_ 0x200#16 (regs [(0#4, 0xFF#8)] base))) = some 0x10FE#16 := by decide

/-! ### Load, ALU, random -/

/-- T-ALU-1. -/
theorem test_alu1_ld_imm : regOf 3#4 (ran 0x63FF base) = some 0xFF#8 := by decide
/-- T-ALU-3. -/
theorem test_alu3_add_imm :
    pairOf 3#4 (ran 0x7301 (regs [(3#4, 0xFF#8), (0xF#4, 5#8)] base)) = some (0x00#8, 5#8) := by decide
/-- T-ALU-6, with VF kept (42_load_alu R162). -/
theorem test_alu6_ld_reg :
    pairOf 1#4 (ran 0x8120 (regs [(2#4, 0x5A#8), (0xF#4, 7#8)] base)) = some (0x5A#8, 7#8) := by decide
/-- T-ALU-7. -/
theorem test_alu7_or :
    pairOf 1#4 (ran 0x8121 (regs [(1#4, 0xF0#8), (2#4, 0x0F#8), (0xF#4, 7#8)] base)) = some (0xFF#8, 7#8) := by decide
/-- T-ALU-8. -/
theorem test_alu8_and :
    pairOf 1#4 (ran 0x8122 (regs [(1#4, 0xF0#8), (2#4, 0x3C#8), (0xF#4, 7#8)] base)) = some (0x30#8, 7#8) := by decide
/-- T-ALU-9. -/
theorem test_alu9_xor :
    pairOf 1#4 (ran 0x8123 (regs [(1#4, 0xF0#8), (2#4, 0x3C#8), (0xF#4, 7#8)] base)) = some (0xCC#8, 7#8) := by decide
/-- T-ALU-11. -/
theorem test_alu11_add_carry :
    pairOf 1#4 (ran 0x8124 (regs [(1#4, 0xFF#8), (2#4, 0xFF#8)] base)) = some (0xFE#8, 1#8) := by decide
/-- T-ALU-14. -/
theorem test_alu14_add_into_vf :
    pairOf 0xF#4 (ran 0x8F14 (regs [(0xF#4, 0xFF#8), (1#4, 0x01#8)] base)) = some (1#8, 1#8) := by decide
/-- T-ALU-20. -/
theorem test_alu20_sub_borrow :
    pairOf 1#4 (ran 0x8125 (regs [(1#4, 3#8), (2#4, 5#8)] base)) = some (0xFE#8, 0#8) := by decide
/-- T-ALU-25. -/
theorem test_alu25_sub_old_vf :
    pairOf 1#4 (ran 0x81F5 (regs [(1#4, 5#8), (0xF#4, 3#8)] base)) = some (0x02#8, 1#8) := by decide
/-- T-ALU-26. -/
theorem test_alu26_shr :
    pairOf 1#4 (ran 0x8126 (regs [(1#4, 0xAA#8), (2#4, 0x05#8)] base)) = some (0x02#8, 1#8) := by decide
/-- T-ALU-35. -/
theorem test_alu35_subn :
    pairOf 1#4 (ran 0x8127 (regs [(1#4, 3#8), (2#4, 5#8)] base)) = some (0x02#8, 1#8) := by decide
/-- T-ALU-36. -/
theorem test_alu36_subn_borrow :
    pairOf 1#4 (ran 0x8127 (regs [(1#4, 5#8), (2#4, 3#8)] base)) = some (0xFE#8, 0#8) := by decide
/-- T-ALU-38. -/
theorem test_alu38_shl : pairOf 1#4 (ran 0x812E (regs [(2#4, 0x81#8)] base)) = some (0x02#8, 1#8) := by decide
/-- T-ALU-27. -/
theorem test_alu27_shr_x :
    pairOf 1#4 (ran 0x8126 (regs [(1#4, 0xAA#8), (2#4, 0x05#8)] shiftXBase)) = some (0x55#8, 0#8) := by decide
/-- T-ALU-41. -/
theorem test_alu41_shl_x :
    pairOf 1#4 (ran 0x812E (regs [(1#4, 0x40#8), (2#4, 0xFF#8)] shiftXBase)) = some (0x80#8, 0#8) := by decide
/-- S6: with NN = 0 the result is 0 whatever the draw. -/
theorem test_s6_rnd_zero : regOf 3#4 (did (.rnd 3 0x00) (regs [(3#4, 0x55#8)] base)) = some 0x00#8 :=
  congrArg some (BitVec.and_zero (x := Config.rnd 0))
/-- T-ALU-49: the draw masked, one of 0 to 15. -/
theorem test_alu49_rnd_masked : regOf 3#4 (did (.rnd 3 0x0F) base) = some (Config.rnd 0 &&& 0x0F#8) := rfl

/-! ### Index register and memory -/

/-- T-MEM-1. -/
theorem test_mem1_ld_i : indexOf (ran 0xA22A base) = some 0x22A#16 := by decide
/-- T-MEM-4. -/
theorem test_mem4_add_i :
    (ran 0xF21E { regs [(2#4, 0x01#8), (0xF#4, 9#8)] base with I := 0x0FFF#16 }).map
      (fun t => (t.I, t.reg 0xF#4)) = some (0x1000#16, 9#8) := by decide
/-- T-MEM-5. -/
theorem test_mem5_add_i_wraps :
    indexOf (ran 0xF21E { regs [(2#4, 0x02#8)] base with I := 0xFFFF#16 }) = some 0x0001#16 := by decide
/-- T-MEM-6. -/
theorem test_mem6_glyph : indexOf (ran 0xF029 (regs [(0#4, 0xFF#8)] base)) = some 0x04FB#16 := by decide
/-- T-MEM-7. -/
theorem test_mem7_glyph : indexOf (ran 0xF029 (regs [(0#4, 0x0A#8)] font50)) = some 0x0082#16 := by decide
/-- T-MEM-9. -/
theorem test_mem9_bcd :
    bytesOf 0xFFD 3 (ran 0xF033 { regs [(0#4, 123#8)] base with I := 0x0FFD#16 }) = some [1#8, 2#8, 3#8] := by decide
/-- T-MEM-10. -/
theorem test_mem10_bcd_range :
    faultOf (ran 0xF033 { regs [(0#4, 123#8)] base with I := 0x0FFE#16 }) = some (4, 0x0200#16, 0x1000#16) := by decide
/-- T-MEM-13. -/
theorem test_mem13_store :
    bytesOf 0x400 4 (ran 0xF255 { regs [(0#4, 0x11#8), (1#4, 0x22#8), (2#4, 0x33#8), (3#4, 0x44#8)] base with I := 0x400#16 }) =
      some [0x11#8, 0x22#8, 0x33#8, 0#8] := by decide
/-- T-MEM-14. -/
theorem test_mem14_store_inc :
    indexOf (ran 0xF255 { regs [(0#4, 0x11#8), (1#4, 0x22#8), (2#4, 0x33#8), (3#4, 0x44#8)] incBase with I := 0x400#16 }) =
      some 0x403#16 := by decide
/-- T-MEM-19. -/
theorem test_mem19_load :
    (ran 0xF265 { (regs [(3#4, 0x77#8)] base).storeBytes 0x300 [1#8, 5#8, 6#8, 9#8] with I := 0x300#16 }).map
      (fun t => [t.reg 0#4, t.reg 1#4, t.reg 2#4, t.reg 3#4]) = some [1#8, 5#8, 6#8, 0x77#8] := by decide
/-- T-MEM-23. -/
theorem test_mem23_load_range :
    faultOf (ran 0xF165 { base with I := 0x0FFF#16 }) = some (4, 0x0200#16, 0x1000#16) := by decide

/-! ### Display -/

/-- T-DRW-2. -/
theorem test_drw2_glyph :
    cellsOf 0 0 64 6 (ran 0xD005 base) =
      some [(0, 0), (1, 0), (2, 0), (3, 0), (0, 1), (3, 1), (0, 2), (3, 2), (0, 3), (3, 3), (0, 4), (1, 4), (2, 4), (3, 4)] := by
  decide +kernel
/-- T-DRW-10. -/
theorem test_drw10_clip_right :
    cellsOf 0 0 64 2 (ran 0xD011 { (regs [(0#4, 60#8)] base).storeBytes 0x300 [0xFF#8] with I := 0x300#16 }) =
      some [(60, 0), (61, 0), (62, 0), (63, 0)] := by decide
/-- T-DRW-18. -/
theorem test_drw18_cls :
    cellsOf 0 0 8 8 (ran 0x00E0 { base with fb := setCell base.fb 5 5 true }) = some [] := by decide
/-- T-DRW-19. -/
theorem test_drw19_cls_dirty : (ran 0x00E0 base).map (fun t => t.dirty) = some true := by decide

/-! ### Keypad and timers -/

/-- T-KEY-1. -/
theorem test_key1_skp :
    pcOf (ran 0xE49E (at_ 0x300#16 ((regs [(4#4, 0x0A#8)] base).setKey 0xA#4 true))) = some 0x304#16 := by decide
/-- T-KEY-2. -/
theorem test_key2_skp :
    pcOf (ran 0xE49E (at_ 0x300#16 ((regs [(4#4, 0x0A#8)] base).setKey 0xA#4 false))) = some 0x302#16 := by decide
/-- T-KEY-3. -/
theorem test_key3_sknp :
    pcOf (ran 0xE4A1 (at_ 0x300#16 ((regs [(4#4, 0x0A#8)] base).setKey 0xA#4 false))) = some 0x304#16 := by decide
/-- T-KEY-4. -/
theorem test_key4_sknp :
    pcOf (ran 0xE4A1 (at_ 0x300#16 ((regs [(4#4, 0x0A#8)] base).setKey 0xA#4 true))) = some 0x302#16 := by decide
/-- T-KW-2, first step. -/
theorem test_kw2_latch :
    waitOf (ran 0xF20A (at_ 0x210#16 (base.setKey 3#4 true))) = some (.release, 3#4, 0x210#16) := by decide
/-- T-KW-1, last step. -/
theorem test_kw1_complete :
    (ran 0xF20A (at_ 0x210#16 { base with kwState := .release, kwIdx := 7#4 })).map
      (fun t => (t.kwState, t.pc, t.reg 2#4)) = some (.idle, 0x212#16, 7#8) := by decide
/-- T-TMR-1. -/
theorem test_tmr1_ld_vx_dt : regOf 3#4 (ran 0xF307 { base with DT := 0x3C#8 }) = some 0x3C#8 := by decide
/-- T-TMR-2. -/
theorem test_tmr2_ld_dt_vx :
    (ran 0xF315 (regs [(3#4, 0x3C#8)] base)).map (fun t => (t.DT, t.ST)) = some (0x3C#8, 0#8) := by decide
/-- T-TMR-3. -/
theorem test_tmr3_ld_st_vx :
    (ran 0xF318 (regs [(3#4, 0x02#8)] base)).map (fun t => (t.ST, t.DT, t.soundOn)) = some (2#8, 0#8, true) := by decide
/-- T-TMR-4. -/
theorem test_tmr4_tick :
    ((tickTimers { base with DT := 0xFF#8, ST := 1#8 }).DT, (tickTimers { base with DT := 0xFF#8, ST := 1#8 }).ST) =
      (0xFE#8, 0#8) := by decide
/-- T-HOST-13: an image of 3585 bytes, in QUIT as in any state; T-HOST-14: an image that fits, in QUIT. -/
theorem test_host13_too_large_in_quit :
    (loadProgram (List.replicate 3585 0#8) { base with execState := .quit }).1 = .imageTooLarge := by
  unfold loadProgram
  rw [test_wf_image_too_long]
  rfl
theorem test_host14_load_in_quit :
    (loadProgram [0x12#8, 0x00#8] { base with execState := .quit }).1 = .refusedInQuit := by decide
/-- T-HOST-12 (a byte 00 equals what its address reads as, so no cell is listed). -/
theorem test_host12_load :
    (loadProgram [0x12#8, 0x00#8] { faultedBase with execState := .paused }).2 =
      { base with mem := [(0x200, 0x12#8)] } := by decide

/-! ### Witnesses: states and operands that meet the hypotheses of the statements, a clause at a time -/

theorem test_wit_EncodeOfDecode : decode 0x8AB4#16 = .instr (.addReg 0xA 0xB) := by decide

theorem test_wit_OpcodeTableSelects_decoded : ∃ i, decode 0xF265#16 = .instr i := ⟨.ldVxMem 2, by decide⟩

theorem test_wit_OpcodeTableSelects_row :
    (⟨"RET", 0xFFFF#16, 0x00EE#16⟩ : TableRow) ∈ opcodeTable ∧ 0x00EE#16 &&& 0xFFFF#16 = 0x00EE#16 := by decide

theorem test_wit_UnimplementedWords :
    [0x0000#16, 0x5121#16, 0x812F#16, 0x9121#16, 0xE09F#16, 0xF000#16].map decode =
      [.unimplemented 0x0000#16, .unimplemented 0x5121#16, .unimplemented 0x812F#16, .unimplemented 0x9121#16,
       .unimplemented 0xE09F#16, .unimplemented 0xF000#16] := by decide

/-- The highest fetchable address holding 0x6005. -/
def topWord : State := (at_ 0xFFE#16 base).withFetchWord 16 0x6005

theorem test_wit_StepRunsDecoded :
    topWord.execState = .running ∧ topWord.faultValid = false ∧ topWord.pc.toNat ≤ 0xFFE ∧
      (0x6005#16).toNat = (topWord.readByte topWord.pc.toNat).toNat * 256 +
        (topWord.readByte (topWord.pc.toNat + 1)).toNat ∧
      decode 0x6005#16 = .instr (.ldImm 0 5) := by decide

theorem test_wit_StepGating_quit : { base with execState := .quit }.execState = .quit := by decide
theorem test_wit_StepGating_paused : { base with execState := .paused }.execState = .paused := by decide
theorem test_wit_StepGating_faulted : faultedBase.execState = .running ∧ faultedBase.faultValid = true := by decide

theorem test_wit_FetchRangeRecorded :
    (at_ 0xFFF#16 base).execState = .running ∧ (at_ 0xFFF#16 base).faultValid = false ∧
      0xFFE < (at_ 0xFFF#16 base).pc.toNat := by decide

theorem test_wit_UnimplementedPolicy_skip :
    base.execState = .running ∧ base.faultValid = false ∧ base.pc.toNat ≤ 0xFFE ∧
      0x0000#16 = base.readByte base.pc.toNat ++ base.readByte (base.pc.toNat + 1) ∧
      decode 0x0000#16 = .unimplemented 0x0000#16 ∧ base.cfg.unimplPolicy = .skip := by decide

theorem test_wit_UnimplementedPolicy_halt :
    haltBase.execState = .running ∧ haltBase.faultValid = false ∧ haltBase.pc.toNat ≤ 0xFFE ∧
      0x0000#16 = haltBase.readByte haltBase.pc.toNat ++ haltBase.readByte (haltBase.pc.toNat + 1) ∧
      decode 0x0000#16 = .unimplemented 0x0000#16 ∧ haltBase.cfg.unimplPolicy = .halt := by decide

/-- A step from a running state without a fault that records one. -/
def recordsAt (s : State) (code : FaultCode) : Bool :=
  decide (s.execState = .running) && !s.faultValid &&
    decide ((nextOf (step s)).map (fun t => (t.faultValid, t.faultCode)) = some (true, code))

theorem test_wit_FaultTable_fetchRange : recordsAt (at_ 0xFFF#16 base) .fetchRange = true := by decide
theorem test_wit_FaultTable_stackOverflow :
    recordsAt ({ base with sp := 16 }.withFetchWord 16 0x2300) .stackOverflow = true := by decide
theorem test_wit_FaultTable_stackUnderflow :
    recordsAt (base.withFetchWord 16 0x00EE) .stackUnderflow = true := by decide
theorem test_wit_FaultTable_drw :
    recordsAt ({ base with I := 0x0FFC#16 }.withFetchWord 16 0xD005) .memRange = true := by decide
theorem test_wit_FaultTable_ldB :
    recordsAt ({ base with I := 0x0FFE#16 }.withFetchWord 16 0xF033) .memRange = true := by decide
theorem test_wit_FaultTable_ldMemVx :
    recordsAt ({ base with I := 0x0FF1#16 }.withFetchWord 16 0xFF55) .memRange = true := by decide
theorem test_wit_FaultTable_ldVxMem :
    recordsAt ({ base with I := 0x1000#16 }.withFetchWord 16 0xF065) .memRange = true := by decide
theorem test_wit_FaultTable_skp :
    recordsAt ((regs [(4#4, 16#8)] base).withFetchWord 16 0xE49E) .keyRange = true := by decide
theorem test_wit_FaultTable_sknp :
    recordsAt ((regs [(4#4, 255#8)] base).withFetchWord 16 0xE4A1) .keyRange = true := by decide
theorem test_wit_FaultTable_unimplemented : recordsAt haltBase .unimplementedOpcode = true := by decide

theorem test_wit_FaultTable_blank :
    topWord.faultValid = false ∧ topWord.faultCode = .none ∧ topWord.faultInfo = 0 ∧
      (nextOf (step topWord)).map (fun t => t.faultValid) = some false := by decide

theorem test_wit_FaultsArePrecise_fetched :
    recordsAt (base.withFetchWord 16 0x00EE) .stackUnderflow = true ∧
      (base.withFetchWord 16 0x00EE).pc.toNat ≤ 0xFFE := by decide
theorem test_wit_FaultsArePrecise_unfetched :
    recordsAt (at_ 0x1000#16 base) .fetchRange = true ∧ 0xFFE < (at_ 0x1000#16 base).pc.toNat := by decide

theorem test_wit_OneFaultPerInstruction :
    [(did (.call 0x300) { base with sp := 16 }), (did .ret base), (did (.skp 4) (regs [(4#4, 16#8)] base)),
      (did (.sknp 4) (regs [(4#4, 16#8)] base)), (did (.drw 0 0 5) { base with I := 0x0FFC#16 }),
      (did (.ldB 0) { base with I := 0x0FFE#16 }), (did (.ldMemVx 0xF) { base with I := 0x0FF1#16 }),
      (did (.ldVxMem 0) { base with I := 0x1000#16 })].map (fun o => o.map (fun t => t.faultValid)) =
    List.replicate 8 (some true) := by decide

theorem test_wit_StepNeverChanges_faulted : (nextOf (step faultedBase)).map (fun t => t.faultValid) = some true := by
  decide
theorem test_wit_StepNeverChanges_clean :
    (nextOf (step topWord)).map (fun t => (t.faultValid, topWord.execState, topWord.faultValid)) =
      some (false, .running, false) := by decide

theorem test_wit_OnlyDisplayWritesScreen :
    ∃ t, exec (.ldB 0) { base with I := 0x300#16 } = .next t ∧ Instr.ldB 0 ≠ .cls ∧ ∀ x y n, Instr.ldB 0 ≠ .drw x y n :=
  ⟨_, rfl, by decide, fun _ _ _ h => by cases h⟩

theorem test_wit_WhoWritesVF_kept :
    (∃ t, exec (.ldImm 3 9) base = .next t) ∧ writesFlag (.ldImm 3 9) = false ∧ xField (.ldImm 3 9) ≠ some 0xF#4 :=
  ⟨⟨_, rfl⟩, by decide⟩
theorem test_wit_WhoWritesVF_flag :
    (did (.addReg 0xF 1) base).map (fun t => t.status) = some .ok ∧ writesFlag (.addReg 0xF 1) = true := by decide

theorem test_wit_HostLatchesUnread : ∃ t, exec (.ldVxDT 3) base = .next t := ⟨_, rfl⟩

theorem test_wit_OnlyStoresWriteMemory :
    (∃ t, exec (.ldB 0) { base with I := 0x0FFD#16 } = .next t) ∧
      (∃ t, exec (.ldMemVx 0xF) { base with I := 0x0FF0#16 } = .next t) ∧ (∃ t, exec (.addI 1) base = .next t) :=
  ⟨⟨_, rfl⟩, ⟨_, rfl⟩, ⟨_, rfl⟩⟩

theorem test_wit_ReturnPops :
    0 < ({ base with sp := 1 } : State).sp.val ∧ 0 < ({ base with sp := 16 } : State).sp.val ∧ base.sp.val = 0 := by
  decide
theorem test_wit_CallPushes :
    base.sp.val < 16 ∧ ({ base with sp := 15 } : State).sp.val < 16 ∧ ({ base with sp := 16 } : State).sp.val = 16 := by
  decide

theorem test_wit_AddWithCarry :
    (regs [(1#4, 0xFF#8), (2#4, 0x01#8)] base).reg 1#4 = 0xFF#8 ∧ (1#4 : Nibble) ≠ 0xF#4 := by decide
theorem test_wit_Subtractions : (1#4 : Nibble) ≠ 0xF#4 ∧ (regs [(1#4, 3#8)] base).reg 1#4 = 3#8 := by decide
theorem test_wit_Shifts_y :
    5 = (if base.cfg.shiftSrc = .y then (regs [(2#4, 5#8)] base).reg 2#4 else (regs [(2#4, 5#8)] base).reg 1#4).toNat ∧
      (1#4 : Nibble) ≠ 0xF#4 := by decide
theorem test_wit_Shifts_x :
    0 = (if shiftXBase.cfg.shiftSrc = .y then (regs [(2#4, 5#8)] shiftXBase).reg 2#4
      else (regs [(2#4, 5#8)] shiftXBase).reg 1#4).toNat := by decide
theorem test_wit_RandomMasked : (0 : Byte) = 0 := by decide

theorem test_wit_StoreDecimal :
    ({ base with I := 0x0FFD#16 } : State).I.toNat + 2 ≤ 0xFFF ∧
      0xFFF < ({ base with I := 0x0FFE#16 } : State).I.toNat + 2 := by decide
theorem test_wit_StoreRegisters :
    ({ base with I := 0x0FF0#16 } : State).I.toNat + (0xF#4 : Nibble).toNat ≤ 0xFFF ∧
      0xFFF < ({ base with I := 0x0FF1#16 } : State).I.toNat + (0xF#4 : Nibble).toNat ∧
      incBase.cfg.loadStoreIncI = true := by decide
theorem test_wit_LoadRegisters :
    ({ base with I := 0x0FFF#16 } : State).I.toNat + (0#4 : Nibble).toNat ≤ 0xFFF ∧
      0xFFF < ({ base with I := 0x0FFF#16 } : State).I.toNat + (1#4 : Nibble).toNat := by decide
/-- FX55 that stores the very next word, at the highest pc a word can follow. -/
def selfStore : State := { regs [(0#4, 0x12#8), (1#4, 0x0A#8)] (at_ 0xFFC#16 base) with I := 0xFFE#16 }

/-- P5: the word stored over the next instruction, 0x120A, is fetched next. -/
theorem test_wit_StoreSeenByNextFetch_all :
    selfStore.pc.toNat ≤ 0xFFC ∧ selfStore.execState = .running ∧ selfStore.faultValid = false ∧
      (did (.ldMemVx 1) selfStore).map (fun t => (t.status, t.fetchWord)) = some (.ok, 0x120A#16) ∧
      decode 0x120A#16 = .instr (.jp 0x20A) := by decide
/-- Half of the next word covered: the last byte stored is its high byte. -/
theorem test_wit_StoreSeenByNextFetch_half :
    (did (.ldMemVx 1) { selfStore with I := 0xFFD#16 }).map (fun t => (t.status, t.fetchWord)) =
      some (.ok, 0x0A00#16) := by decide
/-- FX33 over the next word: 123 leaves its first two digits there. -/
theorem test_wit_StoreSeenByNextFetch_digits :
    (did (.ldB 2) { regs [(2#4, 123#8)] (at_ 0x300#16 base) with I := 0x302#16 }).map
      (fun t => (t.status, t.fetchWord)) = some (.ok, 0x0102#16) := by decide

theorem test_wit_DrawSprite_no_rows : min (0#4 : Nibble).toNat (32 - (base.reg 0#4).toNat % 32) = 0 := by decide
theorem test_wit_DrawSprite_last_row :
    ({ base with I := 0x0FFB#16 } : State).I.toNat + min (5#4 : Nibble).toNat (32 - (base.reg 0#4).toNat % 32) - 1 ≤
      0xFFF := by decide
theorem test_wit_DrawSprite_fault :
    0 < min (5#4 : Nibble).toNat (32 - (base.reg 0#4).toNat % 32) ∧
      0xFFF < ({ base with I := 0x0FFC#16 } : State).I.toNat +
        min (5#4 : Nibble).toNat (32 - (base.reg 0#4).toNat % 32) - 1 := by decide
/-- S7: drawn over itself, every cell of the glyph collides. -/
theorem test_wit_DrawSprite_collision :
    ((did (.drw 0 0 5) base).bind (did (.drw 0 0 5))).map (fun t => t.reg 0xF#4) = some 1#8 := by
  decide +kernel
theorem test_wit_DrawTwiceRestores :
    (0#4 : Nibble) ≠ 0xF#4 ∧ statusOf (did (.drw 0 0 5) base) = some .ok ∧
      ((did (.drw 0 0 5) base).bind (did (.drw 0 0 5))).isSome = true := by decide

theorem test_wit_SkipOnKey :
    ((regs [(4#4, 15#8)] base).reg 4#4).toNat = (0xF#4 : Nibble).toNat ∧
      15 < ((regs [(4#4, 16#8)] base).reg 4#4).toNat := by decide

theorem test_wit_KeyWait_press :
    base.kwState ≠ .release ∧ (base.setKey 0xF#4 true).keyPressed 0xF#4 = true ∧
      ∀ q : Nibble, q.toNat < (0xF#4 : Nibble).toNat → (base.setKey 0xF#4 true).keyPressed q = false := by decide
theorem test_wit_KeyWait_none :
    ({ base with kwState := .press } : State).kwState ≠ .release ∧ ∀ q : Nibble, base.keyPressed q = false := by decide
theorem test_wit_KeyWait_held :
    ({ base.setKey 7#4 true with kwState := .release, kwIdx := 7#4 } : State).keyPressed 7#4 = true := by decide
theorem test_wit_KeyWait_released :
    ({ base with kwState := .release, kwIdx := 7#4 } : State).kwState = .release ∧ base.keyPressed 7#4 = false := by
  decide

/-- A machine about to wait for a key. -/
def waitBase : State := base.withFetchWord 16 0xF20A

theorem test_wit_KeyWaitCompletes :
    waitBase.execState = .running ∧ waitBase.faultValid = false ∧ waitBase.pc.toNat ≤ 0xFFE ∧
      decode waitBase.fetchWord = .instr (.ldVxK 2) ∧ waitBase.kwState = .idle ∧
      ∀ q : Nibble, waitBase.keyPressed q = false := by decide

/-- S8: a call whose target holds a return. -/
def callBase : State := (base.storeBytes 0x208 [0x00#8, 0xEE#8]).withFetchWord 16 0x2208

theorem test_wit_CallThenReturn :
    callBase.execState = .running ∧ callBase.faultValid = false ∧ callBase.pc.toNat ≤ 0xFFE ∧
      decode callBase.fetchWord = .instr (.call 0x208) ∧ callBase.sp.val < 16 ∧ (0x208#12 : Addr).toNat ≤ 0xFFE ∧
      decode (callBase.readByte 0x208 ++ callBase.readByte 0x209) = .instr .ret := by decide

/-- T-CF-4: a jump to itself. -/
def loopBase : State := base.withFetchWord 16 0x1200

theorem test_wit_JumpToSelfStays :
    loopBase.execState = .running ∧ loopBase.faultValid = false ∧ loopBase.pc.toNat = (0x200#12 : Addr).toNat ∧
      (0x200#12 : Addr).toNat ≤ 0xFFE ∧ decode loopBase.fetchWord = .instr (.jp 0x200) := by decide

/-- A machine that has quit. -/
def quitBase : State := { base with execState := .quit }

theorem test_wit_TickCountsDown : quitBase.execState = .quit ∧ base.execState ≠ .quit := by decide
theorem test_wit_KeyEvents : quitBase.execState = .quit ∧ ({ base with execState := .paused } : State).execState ≠ .quit := by
  decide
theorem test_wit_QuitIsTerminal :
    quitBase.execState = .quit ∧ (∀ c, HostOp.step ≠ .reset c) ∧ (∃ t, invoke .step quitBase = .next t) ∧
      ∃ t, invoke (.loadProgram [0#8]) quitBase = .next t :=
  ⟨rfl, fun _ h => (by cases h), ⟨_, rfl⟩, ⟨_, rfl⟩⟩

theorem test_wit_PowerOnState : State.powerOn defaultConfig = base ∧ (79 : Nat) < 80 := by decide

theorem test_wit_PowerOnState_legal : defaultConfig.wellFormed = true := by decide
theorem test_wit_PowerOnState_leaves_quit :
    quitBase.execState = .quit ∧ ∃ t, invoke (.reset defaultConfig) quitBase = .next t ∧ t.execState ≠ .quit :=
  ⟨rfl, _, rfl, by decide⟩

theorem test_wit_LoadProgramSucceeds :
    (List.replicate 3584 0#8).length ≤ 3584 ∧ base.execState ≠ .quit ∧ base.cfg.wellFormed = true :=
  ⟨Nat.le_of_eq List.length_replicate, by decide, by decide⟩
theorem test_wit_LoadProgramSucceeds_empty : ([] : List Byte).length ≤ 3584 := by decide
theorem test_wit_LoadProgramRefused :
    3584 < (List.replicate 3585 0#8).length ∧ faultedBase.execState ≠ .quit ∧ quitBase.execState = .quit ∧
      (List.replicate 3584 0#8).length ≤ 3584 :=
  ⟨by rw [List.length_replicate]; decide, by decide, by decide, Nat.le_of_eq List.length_replicate⟩

theorem test_wit_FaultClearedOnlyByReset_reset :
    faultedBase.faultValid = true ∧ ∃ t, invoke (.reset defaultConfig) faultedBase = .next t ∧ t.faultValid = false :=
  ⟨rfl, _, rfl, rfl⟩
theorem test_wit_FaultClearedOnlyByReset_load :
    ∃ t, invoke (.loadProgram [0x12#8]) faultedBase = .next t ∧ t.faultValid = false := ⟨_, rfl, rfl⟩

theorem test_wit_AfterFault :
    faultedBase.faultValid = true ∧ faultedBase.execState = .running ∧
      (∃ t, invoke .tickTimers faultedBase = .next t) ∧ HostOp.tickTimers ≠ .step :=
  ⟨rfl, rfl, ⟨_, rfl⟩, by decide⟩

/-- 10_state R33, R38, 60_exceptions R285: PAUSED is 1, ST_FAULTED is 4, StackUnderflow is 3. -/
theorem test_wit_OutputsShowState :
    ({ base with ST := 1#8 } : State).ST ≠ 0 ∧ ({ base with kwState := .press } : State).kwState ≠ .idle ∧
      ({ faultedBase with execState := .paused, status := .faulted } : State).outputs.execState = 1 ∧
      ({ faultedBase with execState := .paused, status := .faulted } : State).outputs.status = 4 ∧
      faultedBase.outputs.faultCode = 3 := by decide

/-- Waiting for key 7 at the FX0A it waits in: every invariant holds, WaitInv not for want of a wait. -/
def waiting : State := { waitBase with kwState := .release, kwIdx := 7#4 }

theorem test_wit_StepKeepsMachineInv : MachineInv waiting ∧ ∃ t, step waiting = .next t :=
  ⟨⟨⟨by decide, by decide⟩, by unfold ConfigInv; decide, by unfold FaultInv; decide, by unfold FlowInv; decide,
    fun _ => ⟨by decide, 2#4, by decide⟩⟩, _, rfl⟩
theorem test_wit_HostOpKeepsMachineInv :
    (HostOp.reset { defaultConfig with fontBase := 0x1B0#16 }).legal = true ∧ (HostOp.loadProgram [0#8]).legal = true := by
  decide
theorem test_wit_WaitHoldsInstruction_starts :
    WaitInv waitBase ∧ ∃ t, invoke .step waitBase = .next t ∧ t.kwState ≠ .idle :=
  ⟨fun h => absurd rfl h, _, rfl, by decide⟩
theorem test_wit_WaitHoldsInstruction_lasts :
    WaitInv waiting ∧ ∃ t, invoke .tickTimers waiting = .next t ∧ t.kwState ≠ .idle :=
  ⟨fun _ => ⟨by decide, 2#4, by decide⟩, _, rfl, by decide⟩
theorem test_wit_ReachableMeetsMachineInv : Reachable (keyDown 5#4 (requestPause base)) :=
  ⟨defaultConfig, [.requestPause, .keyDown 5], by decide, by decide, rfl⟩

end Sys2Proof.Tests
end

section
/-! PROOF. O56: every step keeps the machine's invariants.

The idea: outside a key wait the invariants are kept by each operation on the state, as long as `pc` and the pushed
addresses stay in range. In a key wait the word at `pc` is an FX0A, so the one instruction that can run is FX0A itself,
and it either leaves `pc` and the memory alone or ends the wait. -/

namespace Sys2Proof

/-! ### The word of FX0A (30_encoding R92, R96) -/

/-- A word is its fields `OP`, `X` and `NN` (30_encoding R91). -/
theorem word_eq_OP_X_NN (op : Word) : op = fieldOP op ++ fieldX op ++ fieldNN op := by
  apply BitVec.eq_of_getLsbD_eq
  intro i hi
  rw [BitVec.getLsbD_append, BitVec.getLsbD_append]
  interval_cases i <;> simp [fieldOP, fieldX, fieldNN]

theorem decode_encode_ldVxK (x : Nibble) : decode (encode (.ldVxK x)) = .instr (.ldVxK x) := by
  obtain ⟨hop, hx, hnn⟩ := fields_XNN 0xF#4 x 0x0A#8
  simp [encode, decode, decodeF, hop, hx, hnn]

theorem decodeF_eq_ldVxK {op : Word} {x : Nibble} (h : decodeF op = .instr (.ldVxK x)) :
    fieldX op = x ∧ fieldNN op = 0x0A#8 := by
  unfold decodeF at h
  split at h
  case h_2 hnn => exact ⟨by simpa using h, BitVec.eq_of_toNat_eq hnn⟩
  all_goals cases h

/-- Only a word with `OP` = 0xF decodes to FX0A: every other family answers something else. -/
theorem decode_eq_ldVxK {op : Word} {x : Nibble} (h : decode op = .instr (.ldVxK x)) :
    fieldOP op = 0xF#4 ∧ decodeF op = .instr (.ldVxK x) := by
  unfold decode at h
  split at h
  case h_1 => unfold decode0 at h; split_ifs at h <;> cases h
  case h_6 => split_ifs at h; cases h
  case h_9 => unfold decode8 at h; split at h <;> cases h
  case h_10 => split_ifs at h; cases h
  case h_15 => unfold decodeE at h; split at h <;> cases h
  case h_16 =>
    refine ⟨BitVec.eq_of_toNat_eq ?_, h⟩
    have hlt := (fieldOP op).isLt
    simp only [imp_false] at *
    show (fieldOP op).toNat = 15
    omega
  all_goals cases h

theorem encode_of_decode_ldVxK {op : Word} {x : Nibble} (h : decode op = .instr (.ldVxK x)) :
    op = encode (.ldVxK x) := by
  obtain ⟨hop, hF⟩ := decode_eq_ldVxK h
  obtain ⟨hx, hnn⟩ := decodeF_eq_ldVxK hF
  rw [word_eq_OP_X_NN op, hop, hx, hnn, encode]

end Sys2Proof

namespace Sys2Proof.Machine

/-! ### Ranges of `pc` (10_state R24) -/

theorem State.fetchable_iff (s : State) : s.fetchable = true ↔ s.pc.toNat ≤ 0xFFE := decide_eq_true_iff

theorem zextAddr_toNat (nnn : Addr) : (zextAddr nnn).toNat = nnn.toNat := by
  have := nnn.isLt
  simp only [zextAddr, BitVec.toNat_setWidth]
  omega

/-- BNNN reaches at most 0xFFF + 0xFF (41_control_flow R147). -/
theorem zextAddr_add_zextByte_le (nnn : Addr) (v : Byte) : (zextAddr nnn + zextByte v).toNat ≤ 0x10FE := by
  have := nnn.isLt
  have := v.isLt
  simp only [BitVec.toNat_add, zextAddr_toNat, zextByte, BitVec.toNat_setWidth]
  omega

theorem toNat_add_two {a : Word} (h : a.toNat + 2 < 2 ^ 16) : (a + 2#16).toNat = a.toNat + 2 := by
  simp only [BitVec.toNat_add, BitVec.toNat_ofNat]
  omega

/-! ### The invariants under the operations that keep every field they read -/

@[simp] theorem machineInv_setStatus {s : State} {v : StepStatus} : MachineInv (s.setStatus v) ↔ MachineInv s := .rfl
@[simp] theorem machineInv_latchIr {s : State} {op : Word} : MachineInv (s.latchIr op) ↔ MachineInv s := .rfl

/-- A recorded fault has a code, and nothing else that the invariants read changes (60_exceptions R284). -/
theorem MachineInv.raise {s : State} {code : FaultCode} (h : MachineInv s) (hcode : code ≠ .none) (info : Word) :
    MachineInv (s.raise code info) := by
  obtain ⟨hmem, hcfg, -, hflow, hwait⟩ := h
  exact ⟨hmem, hcfg, by simpa [FaultInv] using hcode, hflow, hwait⟩

/-- FX0A that goes on waiting leaves `pc` and the memory as they are (45_keypad_timers R232). -/
theorem MachineInv.awaitPress {s : State} {x : Nibble} (h : MachineInv s) (hf : s.fetchable = true)
    (hw : s.fetchWord = encode (.ldVxK x)) : MachineInv s.awaitPress := by
  obtain ⟨hmem, hcfg, hfault, hflow, -⟩ := h
  refine ⟨?_, ?_, ?_, ?_, fun _ => ⟨?_, x, ?_⟩⟩
  · simpa [MemInv] using hmem
  · simpa [ConfigInv] using hcfg
  · simpa [FaultInv] using hfault
  · simpa [FlowInv] using hflow
  · simpa [State.fetchable] using hf
  · simpa [State.fetchWord] using hw

/-- A key wait runs nothing but FX0A. -/
theorem WaitInv.kwState_eq_idle {s : State} (h : WaitInv s)
    (hd : ∀ x, decode s.fetchWord ≠ .instr (.ldVxK x)) : s.kwState = .idle := by
  by_contra hk
  obtain ⟨-, x, hx⟩ := h hk
  exact hd x (by rw [hx, decode_encode_ldVxK])

/-! ### The invariants outside a key wait -/

/-- The invariants of a machine that is in no key wait: then nothing is asked of the word at `pc`. -/
def IdleInv (s : State) : Prop := MachineInv s ∧ s.kwState = .idle

theorem WaitInv.of_idle {s : State} (h : s.kwState = .idle) : WaitInv s := fun hk => absurd h hk

/-- The wait is over. -/
theorem MachineInv.setKwState_idle {s : State} (h : MachineInv s) : IdleInv (s.setKwState .idle) := by
  obtain ⟨hmem, hcfg, hfault, hflow, -⟩ := h
  exact ⟨⟨hmem, hcfg, hfault, hflow, .of_idle rfl⟩, rfl⟩

@[simp] theorem idleInv_setReg {s : State} {x : Nibble} {v : Byte} : IdleInv (s.setReg x v) ↔ IdleInv s := .rfl
@[simp] theorem idleInv_setRegFlag {s : State} {x : Nibble} {v f : Byte} :
    IdleInv (s.setRegFlag x v f) ↔ IdleInv s := .rfl
@[simp] theorem idleInv_setI {s : State} {v : Word} : IdleInv (s.setI v) ↔ IdleInv s := .rfl
@[simp] theorem idleInv_setDT {s : State} {v : Byte} : IdleInv (s.setDT v) ↔ IdleInv s := .rfl
@[simp] theorem idleInv_setST {s : State} {v : Byte} : IdleInv (s.setST v) ↔ IdleInv s := .rfl
@[simp] theorem idleInv_show {s : State} {fb : Framebuffer} : IdleInv (s.show fb) ↔ IdleInv s := .rfl
@[simp] theorem idleInv_countDraw {s : State} : IdleInv s.countDraw ↔ IdleInv s := .rfl

@[simp] theorem idleInv_incIndex {s : State} {x : Nibble} : IdleInv (s.incIndex x) ↔ IdleInv s := by
  unfold State.incIndex
  split
  · exact idleInv_setI
  · exact .rfl

@[simp] theorem idleInv_loadRegs {s : State} {n : Nat} : IdleInv (s.loadRegs n) ↔ IdleInv s := by
  induction n with
  | zero => exact .rfl
  | succ k ih => exact idleInv_setReg.trans ih

theorem IdleInv.setPc {s : State} {target : Word} (h : IdleInv s) (ht : target.toNat ≤ 0x10FE) :
    IdleInv (s.setPc target) := by
  obtain ⟨⟨hmem, hcfg, hfault, ⟨-, hstack⟩, -⟩, hidle⟩ := h
  exact ⟨⟨hmem, hcfg, hfault, ⟨ht, hstack⟩, .of_idle hidle⟩, hidle⟩

theorem IdleInv.advance {s : State} (h : IdleInv s) (hpc : s.pc.toNat ≤ 0x10FC) : IdleInv s.advance :=
  h.setPc (by rw [toNat_add_two (by omega)]; omega)

theorem IdleInv.skipIf {s : State} (h : IdleInv s) (hpc : s.pc.toNat ≤ 0x10FC) (c : Bool) : IdleInv (s.skipIf c) := by
  unfold State.skipIf
  split
  · exact h.advance hpc
  · exact h

/-- A return lands on a slot of the stack, or the stack is empty and nothing changes. -/
theorem IdleInv.popReturn {s : State} (h : IdleInv s) : IdleInv s.popReturn := by
  by_cases hsp : 0 < s.sp.val
  · obtain ⟨⟨-, -, -, ⟨-, hstack⟩, -⟩, -⟩ := id h
    rw [State.popReturn_eq s hsp]
    have hslot := hstack ⟨s.sp.val - 1, by omega⟩
    exact h.setPc (by dsimp only at hslot; omega)
  · rwa [State.popReturn, dif_neg hsp]

theorem IdleInv.pushReturn {s : State} {a : Word} (h : IdleInv s) (ha : a.toNat ≤ 0x1000) :
    IdleInv (s.pushReturn a) := by
  by_cases hsp : s.sp.val < 16
  · obtain ⟨⟨hmem, hcfg, hfault, ⟨hpc, hstack⟩, hwait⟩, hidle⟩ := h
    rw [State.pushReturn_eq s a hsp]
    refine ⟨⟨hmem, hcfg, hfault, ⟨hpc, fun k => ?_⟩, hwait⟩, hidle⟩
    rw [Vector.getElem_set]
    split
    · exact ha
    · exact hstack k
  · rwa [State.pushReturn, dif_neg hsp]

theorem IdleInv.storeBytes {s : State} {a : Nat} {vs : List Byte} (h : IdleInv s) (ha : a + vs.length ≤ memSize) :
    IdleInv (s.storeBytes a vs) := by
  obtain ⟨⟨hmem, hcfg, hfault, hflow, -⟩, hidle⟩ := h
  exact ⟨⟨Memory.writeList_wf hmem (.inr ha), hcfg, hfault, hflow, .of_idle hidle⟩, hidle⟩

/-! ### Instructions -/

theorem complete_keeps_machineInv {u t : State} (h : complete u = .next t) (hu : MachineInv u) : MachineInv t := by
  obtain rfl : u.setStatus .ok = t := Host.Outcome.next.inj h
  exact hu

/-- An action behind a check: only the action, run when the check passes, is left to look at. -/
theorem completeOrRaise_keeps_machineInv {ok : Bool} {code : FaultCode} {info : Word} {s t : State}
    {action : State → State} (h : completeOrRaise ok code info s action = .next t) (hs : MachineInv s)
    (hcode : code ≠ .none) (ha : ok = true → IdleInv (action s.advance)) : MachineInv t := by
  rcases completeOrRaise_cases ok code info s action with ⟨hok, he⟩ | ⟨-, he⟩
  · obtain rfl := Host.Outcome.next.inj (he.symm.trans h)
    exact machineInv_setStatus.2 (ha hok).1
  · obtain rfl := Host.Outcome.next.inj (he.symm.trans h)
    exact hs.raise hcode info

/-- The three answers of FX0A (45_keypad_timers R232): it awaits a press, it awaits the release of the latched key, or
it stores that key and ends the wait. -/
theorem execLdVxK_cases (x : Nibble) (s : State) :
    (s.kwState ≠ .release ∧ execLdVxK x s = complete s.awaitPress) ∨
    (s.kwState = .release ∧ s.keyPressed s.kwIdx = true ∧ execLdVxK x s = complete s) ∨
    (s.kwState = .release ∧ s.keyPressed s.kwIdx = false ∧
      execLdVxK x s = complete ((s.advance.setReg x (zextNibble s.kwIdx)).setKwState .idle)) := by
  unfold execLdVxK
  cases hk : s.kwState with
  | idle => exact .inl ⟨nofun, rfl⟩
  | press => exact .inl ⟨nofun, rfl⟩
  | release =>
    cases hp : s.keyPressed s.kwIdx with
    | true => exact .inr (.inl ⟨rfl, rfl, rfl⟩)
    | false => exact .inr (.inr ⟨rfl, rfl, rfl⟩)

theorem execLdVxK_keeps_machineInv {x : Nibble} {s t : State} (hs : MachineInv s) (hf : s.fetchable = true)
    (hw : s.fetchWord = encode (.ldVxK x)) (h : execLdVxK x s = .next t) : MachineInv t := by
  have hpc := s.fetchable_iff.1 hf
  rcases execLdVxK_cases x s with ⟨-, he⟩ | ⟨-, -, he⟩ | ⟨-, -, he⟩ <;> rw [he] at h
  · exact complete_keeps_machineInv h (hs.awaitPress hf hw)
  · exact complete_keeps_machineInv h hs
  · have hend : IdleInv (s.setKwState .idle).advance := hs.setKwState_idle.advance (by simp; omega)
    exact complete_keeps_machineInv h hend.1

/-- Outside a key wait every instruction but FX0A keeps the invariants. -/
theorem exec_keeps_machineInv_of_idle {i : Instr} {s t : State} (hs : IdleInv s) (hf : s.fetchable = true)
    (hi : ∀ x, i ≠ .ldVxK x) (h : exec i s = .next t) : MachineInv t := by
  have hpc := s.fetchable_iff.1 hf
  have hadv : IdleInv s.advance := hs.advance (by omega)
  have hnext : s.advance.pc.toNat ≤ 0x1000 := by
    rw [State.advance_pc, toNat_add_two (by omega)]
    omega
  have hskip (c : Bool) : IdleInv (s.advance.skipIf c) := hadv.skipIf (by omega) c
  have hjump (nnn : Addr) : (zextAddr nnn).toNat ≤ 0x10FE := by
    rw [zextAddr_toNat]
    omega
  have hstore {n : Nat} (hr : s.dataInRange (n + 1) = true) : s.I.toNat + (n + 1) ≤ memSize :=
    ((s.dataInRange_iff _).1 hr).resolve_left n.succ_ne_zero
  cases i with
  | ldVxK x => exact absurd rfl (hi x)
  | ret => exact completeOrRaise_keeps_machineInv h hs.1 (by decide) fun _ => hadv.popReturn
  | call nnn =>
    rw [exec, execCall] at h
    exact completeOrRaise_keeps_machineInv h hs.1 (by decide) fun _ => (hadv.pushReturn hnext).setPc (hjump nnn)
  | jp nnn => exact complete_keeps_machineInv h (hadv.setPc (hjump nnn)).1
  | jpV0 nnn => exact complete_keeps_machineInv h (hadv.setPc (zextAddr_add_zextByte_le nnn _)).1
  | seImm _ _ | sneImm _ _ | seReg _ _ | sneReg _ _ => exact complete_keeps_machineInv h (hskip _).1
  | skp _ | sknp _ => exact completeOrRaise_keeps_machineInv h hs.1 (by decide) fun _ => hskip _
  | ldB x =>
    rw [exec, execLdB] at h
    exact completeOrRaise_keeps_machineInv h hs.1 (by decide) fun hr => hadv.storeBytes (hstore hr)
  | ldMemVx x =>
    rw [exec, execLdMemVx] at h
    refine completeOrRaise_keeps_machineInv h hs.1 (by decide) fun hr => idleInv_incIndex.2 (hadv.storeBytes ?_)
    rw [State.regsUpTo_length]
    exact hstore hr
  | ldVxMem x =>
    rw [exec, execLdVxMem] at h
    exact completeOrRaise_keeps_machineInv h hs.1 (by decide) fun _ => by simpa using hadv
  | drw x y n =>
    rw [exec, execDrw] at h
    exact completeOrRaise_keeps_machineInv h hs.1 (by decide) fun _ => by simpa using hadv
  | _ => exact complete_keeps_machineInv h hadv.1

/-- The instruction that the fetched word decodes to keeps the invariants. -/
theorem exec_keeps_machineInv {i : Instr} {s t : State} (hs : MachineInv s) (hf : s.fetchable = true)
    (hd : decode s.fetchWord = .instr i) (h : exec i s = .next t) : MachineInv t := by
  obtain ⟨-, -, -, -, hwait⟩ := id hs
  by_cases hi : ∃ x, i = .ldVxK x
  · obtain ⟨x, rfl⟩ := hi
    exact execLdVxK_keeps_machineInv hs hf (encode_of_decode_ldVxK hd) h
  · have hi (x : Nibble) : i ≠ .ldVxK x := fun e => hi ⟨x, e⟩
    have hidle : s.kwState = .idle := hwait.kwState_eq_idle fun x e => hi x (Decoded.instr.inj (hd.symm.trans e))
    exact exec_keeps_machineInv_of_idle ⟨hs, hidle⟩ hf hi h

/-- An unimplemented opcode, stepped over or recorded, keeps the invariants: it is no FX0A, so there is no wait. -/
theorem unimplementedOp_keeps_machineInv {s : State} {op : Word} (hs : MachineInv s) (hf : s.fetchable = true)
    (hd : decode s.fetchWord = .unimplemented op) : MachineInv (s.unimplementedOp op) := by
  obtain ⟨-, -, -, -, hwait⟩ := id hs
  have hidle : s.kwState = .idle := hwait.kwState_eq_idle (by simp [hd])
  have hpc := s.fetchable_iff.1 hf
  rcases s.unimplementedOp_cases op with ⟨-, he⟩ | ⟨-, he⟩ <;> rw [he]
  · exact machineInv_setStatus.2 (IdleInv.advance ⟨hs, hidle⟩ (by omega)).1
  · exact hs.raise (by decide) op

/-- Settles O56, by the cases of the step cycle: the gates touch `status` alone, a fault is recorded, and what the
fetched word decodes to keeps the invariants. -/
theorem stepKeepsMachineInv : Obligations.StepKeepsMachineInv := by
  intro s t hs h
  unfold step at h
  rcases cycle_cases exec s with ⟨-, he⟩ | ⟨-, he⟩ | ⟨-, -, he⟩ | ⟨-, -, -, he⟩ |
    ⟨-, -, hf, i, hd, he⟩ | ⟨-, -, hf, hd, he⟩ <;> rw [he] at h
  · obtain rfl := Host.Outcome.next.inj h
    exact hs
  · obtain rfl := Host.Outcome.next.inj h
    exact hs
  · obtain rfl := Host.Outcome.next.inj h
    exact hs
  · obtain rfl := Host.Outcome.next.inj h
    exact hs.raise (by decide) s.pc
  · exact exec_keeps_machineInv (s := s.latchIr s.fetchWord) hs hf hd h
  · obtain rfl := Host.Outcome.next.inj h
    exact unimplementedOp_keeps_machineInv (s := s.latchIr s.fetchWord) hs hf hd

end Sys2Proof.Machine
end

section
/-! PROOF. O16, O17, O18, O54, O55: what no instruction does to VF and to the memory, what none reads, what the host
sees, and the machine after reset. -/

namespace Sys2Proof.Machine

/-! ### The machine after power-on reset (10_state R40) -/

theorem machineInv_powerOn {c : Config} (hc : c.wellFormed = true) : MachineInv (State.powerOn c) := by
  refine ⟨Memory.nil_wf c, hc, ⟨rfl, rfl, rfl⟩, ⟨?_, fun k => ?_⟩, .of_idle rfl⟩ <;> simp [State.powerOn]

/-- Settles O55: memory without a listed cell is canonical, and no other invariant asks anything of a machine with a
blank fault record, a zeroed stack and no key wait. -/
theorem powerOnMeetsMachineInv : Obligations.PowerOnMeetsMachineInv :=
  ⟨machineInv_powerOn (by decide), fun _ => machineInv_powerOn⟩

/-! ### The output ports (46_host_operations R250) -/

@[simp] theorem State.outputs_fb (s : State) : s.outputs.fb = s.snapshot := by rw [State.outputs]

@[simp] theorem State.snapshot_length (s : State) : s.snapshot.length = 2048 := by
  rw [State.snapshot, List.length_map, List.length_range]

/-- Row order: the row and the column of a cell are the quotient and the remainder of its index by 64 (10_state R31). -/
theorem State.snapshot_getElem? (s : State) {x y : Nat} (hx : x < 64) (hy : y < 32) :
    s.snapshot[y * 64 + x]? = some (cellAt s.fb x y) := by
  have hcol : (y * 64 + x) % 64 = x := by omega
  have hrow : (y * 64 + x) / 64 = y := by omega
  rw [State.snapshot, List.getElem?_map, List.getElem?_range (by omega), Option.map_some, hcol, hrow]

/-- Settles O54, port by port. -/
theorem outputsShowState : Obligations.OutputsShowState := by
  refine ⟨by decide, fun s => ⟨?fbLength, fun x y hx hy => ?fbCell, rfl, rfl, rfl, rfl,
    decide_eq_true_iff, decide_eq_true_iff, ?execState, ?status, rfl, ?faultCode, rfl, rfl⟩⟩
  case fbLength => rw [State.outputs_fb, State.snapshot_length]
  case fbCell => rw [State.outputs_fb, State.snapshot_getElem? s hx hy]
  case execState => cases he : s.execState <;> simp [State.outputs, execStateCode, he]
  case status => cases hq : s.status <;> simp [State.outputs, statusCode, hq]
  case faultCode => cases hf : s.faultCode <;> simp [State.outputs, faultCodeNumber, hf]

/-! ### The state an instruction leaves -/

/-- What holds of the completed state holds of the answer. -/
theorem complete_next {P : State → Prop} {u t : State} (h : complete u = .next t) (hu : P (u.setStatus .ok)) : P t :=
  Host.Outcome.next.inj h ▸ hu

/-- What holds of the completed action and of the recorded fault holds of the answer of a checked action. -/
theorem completeOrRaise_next {P : State → Prop} {ok : Bool} {code : FaultCode} {info : Word} {s t : State}
    {action : State → State} (h : completeOrRaise ok code info s action = .next t)
    (ha : P ((action s.advance).setStatus .ok)) (hr : P (s.raise code info)) : P t := by
  rcases completeOrRaise_cases ok code info s action with ⟨-, he⟩ | ⟨-, he⟩
  · exact Host.Outcome.next.inj (he.symm.trans h) ▸ ha
  · exact Host.Outcome.next.inj (he.symm.trans h) ▸ hr

/-- What holds of the three states that FX0A can leave holds of its answer (45_keypad_timers R232). -/
theorem execLdVxK_next {P : State → Prop} {x : Nibble} {s t : State} (h : execLdVxK x s = .next t)
    (hpress : P (s.awaitPress.setStatus .ok)) (hrelease : P (s.setStatus .ok))
    (hend : P (((s.advance.setReg x (zextNibble s.kwIdx)).setKwState .idle).setStatus .ok)) : P t := by
  rcases execLdVxK_cases x s with ⟨-, he⟩ | ⟨-, -, he⟩ | ⟨-, -, he⟩ <;> rw [he] at h
  · exact complete_next h hpress
  · exact complete_next h hrelease
  · exact complete_next h hend

/-! ### Memory (10_state R30) -/

/-- A store leaves every byte outside its own alone. -/
theorem memSameOutside_storeBytes (s : State) (a : Nat) (vs : List Byte) :
    MemSameOutside a vs.length s (s.storeBytes a vs) := by
  intro b hb
  rw [State.readByte_storeBytes, if_neg (by omega)]

/-- Settles O18, by the instruction: the two stores write the bytes from `I`, no other operation writes memory. -/
theorem onlyStoresWriteMemory : Obligations.OnlyStoresWriteMemory := by
  intro i s t h
  cases i with
  | ldB x =>
    rw [exec, execLdB] at h
    exact completeOrRaise_next (P := MemSameOutside s.I.toNat 3 s) h
      (memSameOutside_storeBytes s.advance s.I.toNat (decimalDigits (s.reg x))) fun _ _ => rfl
  | ldMemVx x =>
    rw [exec, execLdMemVx] at h
    refine completeOrRaise_next (P := MemSameOutside s.I.toNat (x.toNat + 1) s) h (fun b hb => ?_) fun _ _ => rfl
    have hstore := memSameOutside_storeBytes s.advance s.I.toNat (s.regsUpTo x)
    rw [State.regsUpTo_length] at hstore
    simpa using hstore b hb
  | ret | call _ | skp _ | sknp _ | ldVxMem _ | drw _ _ _ =>
    simp only [exec, execRet, execCall, execSkp, execSknp, execLdVxMem, execDrw] at h
    exact completeOrRaise_next (P := MemSame s) h (fun _ => by simp) fun _ => rfl
  | ldVxK x => exact execLdVxK_next (P := MemSame s) h (fun _ => by simp) (fun _ => rfl) fun _ => rfl
  | seImm _ _ | sneImm _ _ | seReg _ _ | sneReg _ _ =>
    exact complete_next (P := MemSame s) h (State.skipIf_readByte _ _)
  | _ => exact complete_next (P := MemSame s) h fun _ => rfl

/-! ### VF (10_state R22) -/

/-- VF reads as before. -/
def KeepsVF (s t : State) : Prop := t.reg 0xF#4 = s.reg 0xF#4

/-- VF holds 0 or 1. -/
def FlagInVF (t : State) : Prop := t.reg 0xF#4 = 0 ∨ t.reg 0xF#4 = 1

theorem flagByte_eq_zero_or_one (b : Bool) : flagByte b = 0 ∨ flagByte b = 1 := by cases b <;> decide

theorem flagInVF_setReg (s : State) (b : Bool) : FlagInVF (s.setReg 0xF#4 (flagByte b)) := by
  rw [FlagInVF, State.reg_setReg, if_pos rfl]
  exact flagByte_eq_zero_or_one b

theorem keepsVF_setReg {s u : State} (h : KeepsVF s u) {x : Nibble} (hx : x ≠ 0xF#4) (v : Byte) :
    KeepsVF s (u.setReg x v) := by
  rw [KeepsVF, State.reg_setReg, if_neg hx.symm]
  exact h

/-- A load of V0 to VX reaches VF only when X is F. -/
theorem keepsVF_loadRegs (s : State) {x : Nibble} (hx : x ≠ 0xF#4) : KeepsVF s (s.loadRegs (x.toNat + 1)) := by
  have hlt : x.toNat < 15 := by bv_omega
  rw [KeepsVF, State.reg_loadRegs _ _ (by omega), if_neg]
  show ¬ 15 < x.toNat + 1
  omega

/-- An instruction that writes no flag and has no X field equal to F keeps VF. -/
theorem exec_keepsVF {i : Instr} {s t : State} (h : exec i s = .next t) (hflag : writesFlag i = false)
    (hx : xField i ≠ some 0xF#4) : KeepsVF s t := by
  have hne {x : Nibble} (hi : xField i = some x) : x ≠ 0xF#4 := fun e => hx (e ▸ hi)
  cases i with
  | addReg _ _ | subReg _ _ | shrReg _ _ | subnReg _ _ | shlReg _ _ | drw _ _ _ => cases hflag
  | ldImm _ _ | addImm _ _ | ldReg _ _ | orReg _ _ | andReg _ _ | xorReg _ _ | rnd _ _ | ldVxDT _ =>
    exact complete_next (P := KeepsVF s) h (keepsVF_setReg rfl (hne rfl) _)
  | ldVxK x =>
    exact execLdVxK_next (P := KeepsVF s) h (s.awaitPress_reg _) rfl (keepsVF_setReg rfl (hne rfl) _)
  | ldVxMem x =>
    rw [exec, execLdVxMem] at h
    refine completeOrRaise_next (P := KeepsVF s) h ?_ rfl
    exact (State.incIndex_reg _ x _).trans (keepsVF_loadRegs s.advance (hne rfl))
  | ret | call _ | skp _ | sknp _ | ldB _ | ldMemVx _ =>
    simp only [exec, execRet, execCall, execSkp, execSknp, execLdB, execLdMemVx] at h
    exact completeOrRaise_next (P := KeepsVF s) h (by simp [KeepsVF]) rfl
  | seImm _ _ | sneImm _ _ | seReg _ _ | sneReg _ _ => exact complete_next (P := KeepsVF s) h (State.skipIf_reg _ _ _)
  | _ => exact complete_next (P := KeepsVF s) h rfl

/-- An instruction that writes a flag and completes leaves VF 0 or 1. -/
theorem exec_flagInVF {i : Instr} {s t : State} (h : exec i s = .next t) (hflag : writesFlag i = true)
    (hok : t.status = .ok) : FlagInVF t := by
  cases i with
  | addReg _ _ | subReg _ _ | shrReg _ _ | subnReg _ _ | shlReg _ _ =>
    exact complete_next (P := FlagInVF) h (flagInVF_setReg _ _)
  | drw x y n =>
    rw [exec, execDrw] at h
    exact completeOrRaise_next (P := fun t => t.status = .ok → FlagInVF t) h (fun _ => flagInVF_setReg _ _)
      nofun hok
  | _ => cases hflag

/-- Settles O16: a register write other than the flag's own misses VF when X is not F, and a flag is 0 or 1. -/
theorem whoWritesVF : Obligations.WhoWritesVF :=
  fun _ _ _ h => ⟨exec_keepsVF h, exec_flagInVF h⟩

/-! ### The latches for the host: ST, `dirty`, `status` (10_state R28, R35, R38)

Two states that differ in the latches at most stay so under every operation of an instruction, and pass or fail every
check alike. -/

/-- The state with ST, `dirty` and `status` replaced. -/
def State.withLatches (s : State) (st : Byte) (d : Bool) (q : StepStatus) : State :=
  { s with ST := st, dirty := d, status := q }

/-- The states differ in ST, `dirty` and `status` at most. -/
def SameButLatches (s u : State) : Prop := ∃ st d q, u = s.withLatches st d q

/-- Both answers are next states, which differ in ST and `dirty` at most. -/
def AnswersAlike (o o' : Host.Outcome State Fault Refusal) : Prop :=
  ∃ t u, o = .next t ∧ o' = .next u ∧ u = { t with ST := u.ST, dirty := u.dirty }

theorem State.popReturn_of_empty {s : State} (h : ¬ 0 < s.sp.val) : s.popReturn = s := dif_neg h

theorem State.pushReturn_of_full {s : State} {a : Word} (h : ¬ s.sp.val < 16) : s.pushReturn a = s := dif_neg h

section
variable {s u : State} (h : SameButLatches s u)
include h

theorem SameButLatches.skipIf (c : Bool) : SameButLatches (s.skipIf c) (u.skipIf c) := by
  obtain ⟨st, d, q, rfl⟩ := h
  cases c <;> exact ⟨st, d, q, rfl⟩

theorem SameButLatches.incIndex (x : Nibble) : SameButLatches (s.incIndex x) (u.incIndex x) := by
  obtain ⟨st, d, q, rfl⟩ := h
  have hcfg : (s.withLatches st d q).cfg = s.cfg := rfl
  unfold State.incIndex
  rw [hcfg]
  split <;> exact ⟨st, d, q, rfl⟩

theorem SameButLatches.loadRegs (n : Nat) : SameButLatches (s.loadRegs n) (u.loadRegs n) := by
  induction n with
  | zero => exact h
  | succ k ih =>
    obtain ⟨st, d, q, hk⟩ := ih
    obtain ⟨_, _, _, rfl⟩ := h
    rw [State.loadRegs, State.loadRegs, hk]
    exact ⟨st, d, q, rfl⟩

theorem SameButLatches.popReturn : SameButLatches s.popReturn u.popReturn := by
  obtain ⟨st, d, q, rfl⟩ := h
  by_cases hsp : 0 < s.sp.val
  · rw [State.popReturn_eq s hsp, State.popReturn_eq (s.withLatches st d q) hsp]
    exact ⟨st, d, q, rfl⟩
  · rw [State.popReturn_of_empty hsp, State.popReturn_of_empty (s := s.withLatches st d q) hsp]
    exact ⟨st, d, q, rfl⟩

theorem SameButLatches.pushReturn (a : Word) : SameButLatches (s.pushReturn a) (u.pushReturn a) := by
  obtain ⟨st, d, q, rfl⟩ := h
  by_cases hsp : s.sp.val < 16
  · rw [State.pushReturn_eq s a hsp, State.pushReturn_eq (s.withLatches st d q) a hsp]
    exact ⟨st, d, q, rfl⟩
  · rw [State.pushReturn_of_full hsp, State.pushReturn_of_full (s := s.withLatches st d q) hsp]
    exact ⟨st, d, q, rfl⟩

theorem SameButLatches.setPc (target : Word) : SameButLatches (s.setPc target) (u.setPc target) := by
  obtain ⟨st, d, q, rfl⟩ := h
  exact ⟨st, d, q, rfl⟩

/-- The key that is latched does not stand in the latches. -/
theorem SameButLatches.awaitPress : SameButLatches s.awaitPress u.awaitPress := by
  obtain ⟨st, d, q, rfl⟩ := h
  have hkey : (s.withLatches st d q).leastKey = s.leastKey := rfl
  unfold State.awaitPress
  rw [hkey]
  cases s.leastKey <;> exact ⟨st, d, q, rfl⟩

theorem complete_alike : AnswersAlike (complete s) (complete u) := by
  obtain ⟨st, d, q, rfl⟩ := h
  exact ⟨_, _, rfl, rfl, rfl⟩

/-- Actions behind the same check answer alike. -/
theorem completeOrRaise_alike {ok : Bool} {code : FaultCode} {info : Word} {f g : State → State}
    (hfg : SameButLatches (f s.advance) (g u.advance)) :
    AnswersAlike (completeOrRaise ok code info s f) (completeOrRaise ok code info u g) := by
  cases ok with
  | true => exact complete_alike hfg
  | false =>
    obtain ⟨st, d, q, rfl⟩ := h
    exact ⟨_, _, rfl, rfl, rfl⟩

/-- FX0A answers alike: neither the sub-state of the wait nor a key stands in the latches. -/
theorem execLdVxK_alike (x : Nibble) : AnswersAlike (execLdVxK x s) (execLdVxK x u) := by
  have hpress := complete_alike h.awaitPress
  obtain ⟨st, d, q, rfl⟩ := h
  have hkw : (s.withLatches st d q).kwState = s.kwState := rfl
  have hkey : (s.withLatches st d q).keyPressed (s.withLatches st d q).kwIdx = s.keyPressed s.kwIdx := rfl
  unfold execLdVxK
  rw [hkw, hkey]
  cases s.kwState with
  | idle | press => exact hpress
  | release =>
    dsimp only
    split <;> exact complete_alike ⟨st, d, q, rfl⟩

end

/-- Every instruction answers alike with other latches. -/
theorem exec_alike (i : Instr) (s : State) (st : Byte) (d : Bool) (q : StepStatus) :
    AnswersAlike (exec i s) (exec i (s.withLatches st d q)) := by
  have h : SameButLatches s (s.withLatches st d q) := ⟨st, d, q, rfl⟩
  have hadv : SameButLatches s.advance (s.withLatches st d q).advance := ⟨st, d, q, rfl⟩
  cases i with
  | ldVxK x => exact execLdVxK_alike h x
  | seImm _ _ | sneImm _ _ | seReg _ _ | sneReg _ _ => exact complete_alike (hadv.skipIf _)
  | skp _ | sknp _ => exact completeOrRaise_alike h (hadv.skipIf _)
  | ret => exact completeOrRaise_alike h hadv.popReturn
  | call nnn =>
    simp only [exec, execCall]
    exact completeOrRaise_alike h ((hadv.pushReturn _).setPc _)
  | ldB x =>
    simp only [exec, execLdB]
    exact completeOrRaise_alike h ⟨st, d, q, rfl⟩
  | drw x y n =>
    simp only [exec, execDrw]
    exact completeOrRaise_alike h ⟨st, true, q, rfl⟩
  | ldMemVx x =>
    simp only [exec, execLdMemVx]
    have hstore : SameButLatches (s.advance.storeBytes s.I.toNat (s.regsUpTo x))
        ((s.withLatches st d q).advance.storeBytes s.I.toNat (s.regsUpTo x)) := ⟨st, d, q, rfl⟩
    exact completeOrRaise_alike h (hstore.incIndex x)
  | ldVxMem x =>
    simp only [exec, execLdVxMem]
    exact completeOrRaise_alike h ((hadv.loadRegs _).incIndex x)
  | cls => exact complete_alike ⟨st, true, q, rfl⟩
  | ldSTVx x => exact complete_alike ⟨s.reg x, d, q, rfl⟩
  | _ => exact complete_alike ⟨st, d, q, rfl⟩

/-- Settles O17, by the instruction: no check, and no operation of an action, reads a latch. -/
theorem hostLatchesUnread : Obligations.HostLatchesUnread := by
  intro i s t st d q h
  obtain ⟨_, u, ht, hu, halike⟩ := exec_alike i s st d q
  obtain rfl := Host.Outcome.next.inj (h.symm.trans ht)
  exact ⟨u, hu, halike⟩

end Sys2Proof.Machine
end

section
/-! PROOF. O35: the word that FX55 or FX33 stores over is what the next step fetches and runs.

The idea: a completed store goes on to the next word, keeps the step gates as they were and leaves a memory that is
known byte by byte, so the next fetch reads two of those bytes. -/

namespace Sys2Proof.Machine

/-! ### The bytes of the two stores (43_index_memory R193, R194) -/

/-- The digits in the arithmetic of R193 on numbers. -/
theorem decimalDigits_eq_ofNat (v : Byte) : decimalDigits v =
    [BitVec.ofNat 8 (v.toNat / 100), BitVec.ofNat 8 (v.toNat / 10 % 10), BitVec.ofNat 8 (v.toNat % 10)] := by
  have hv := v.isLt
  simp only [decimalDigits, List.cons.injEq, ← BitVec.toNat_inj, BitVec.toNat_udiv, BitVec.toNat_umod,
    BitVec.toNat_ofNat, Nat.reducePow, Nat.reduceMod, and_true]
  omega

/-- A byte after the digits of a value are stored. -/
theorem State.readByte_storeDigits (s : State) (a b : Nat) (v : Byte) :
    (s.storeBytes a (decimalDigits v)).readByte b =
      if b = a then BitVec.ofNat 8 (v.toNat / 100)
      else if b = a + 1 then BitVec.ofNat 8 (v.toNat / 10 % 10)
      else if b = a + 2 then BitVec.ofNat 8 (v.toNat % 10)
      else s.readByte b := by
  have hlen : (decimalDigits v).length = 3 := rfl
  rw [State.readByte_storeBytes, hlen, decimalDigits_eq_ofNat]
  by_cases hin : a ≤ b ∧ b < a + 3
  · obtain rfl | rfl | rfl : b = a ∨ b = a + 1 ∨ b = a + 2 := by omega
    all_goals simp
  · rw [if_neg hin, if_neg (by omega), if_neg (by omega), if_neg (by omega)]

/-- A byte after V0 to VX of a state are stored. -/
theorem State.readByte_storeRegs (s u : State) (a b : Nat) (x : Nibble) :
    (u.storeBytes a (s.regsUpTo x)).readByte b =
      if a ≤ b ∧ b ≤ a + x.toNat then s.reg (BitVec.ofNat 4 (b - a)) else u.readByte b := by
  rw [State.readByte_storeBytes, State.regsUpTo_length]
  by_cases hin : a ≤ b ∧ b ≤ a + x.toNat
  · rw [if_pos (by omega), if_pos hin, State.regsUpTo_getD s x (b - a) (by omega)]
  · rw [if_neg (by omega), if_neg hin]

/-! ### Completed instructions and the step that follows -/

/-- A checked action whose answer is no fault has run on the advanced state. -/
theorem completeOrRaise_eq_of_ok {ok : Bool} {code : FaultCode} {info : Word} {s t : State} {action : State → State}
    (h : completeOrRaise ok code info s action = .next t) (hok : t.status = .ok) :
    t = (action s.advance).setStatus .ok :=
  completeOrRaise_next (P := fun t => t.status = .ok → t = (action s.advance).setStatus .ok) h (fun _ => rfl) nofun
    hok

/-- A step past the gates runs the instruction that the fetched word decodes to (40_fetch_step R121, R122). -/
theorem step_eq_exec {s : State} {i : Instr} (hrun : s.execState = .running) (hfault : s.faultValid = false)
    (hfetch : s.fetchable = true) (hd : decode s.fetchWord = .instr i) : step s = exec i (s.latchIr s.fetchWord) := by
  simpa [step, hrun, hfault, hfetch, hd] using cycle_cases exec s

/-- The state `t` stands at the word behind that of `s`, at the same step gates, and its memory reads as `b`. -/
structure NextWordOver (s : State) (b : Nat → Byte) (t : State) : Prop where
  pc : t.pc = s.pc + 2#16
  execState : t.execState = s.execState
  faultValid : t.faultValid = s.faultValid
  readByte : ∀ a, t.readByte a = b a

theorem NextWordOver.toNat_pc {s t : State} {b : Nat → Byte} (h : NextWordOver s b t) (hpc : s.pc.toNat ≤ 0xFFC) :
    t.pc.toNat = s.pc.toNat + 2 := by
  rw [h.pc, toNat_add_two (by omega)]

theorem NextWordOver.fetchWord {s t : State} {b : Nat → Byte} (h : NextWordOver s b t) (hpc : s.pc.toNat ≤ 0xFFC) :
    t.fetchWord = b (s.pc.toNat + 2) ++ b (s.pc.toNat + 3) := by
  rw [State.fetchWord, h.toNat_pc hpc, h.readByte, h.readByte, wordOfBytes]

/-- A completed FX33 goes on to the next word over the memory with the digits stored (43_index_memory R193). -/
theorem ldB_nextWordOver {x : Nibble} {s t : State} {b : Nat → Byte} (h : exec (.ldB x) s = .next t)
    (hok : t.status = .ok) (hb : ∀ a, (s.storeBytes s.I.toNat (decimalDigits (s.reg x))).readByte a = b a) :
    NextWordOver s b t := by
  rw [exec, execLdB] at h
  obtain rfl := completeOrRaise_eq_of_ok h hok
  exact ⟨rfl, rfl, rfl, hb⟩

/-- A completed FX55 does so over the memory with the registers stored, whether or not it moves `I` (R194). -/
theorem ldMemVx_nextWordOver {x : Nibble} {s t : State} {b : Nat → Byte} (h : exec (.ldMemVx x) s = .next t)
    (hok : t.status = .ok) (hb : ∀ a, (s.storeBytes s.I.toNat (s.regsUpTo x)).readByte a = b a) :
    NextWordOver s b t := by
  rw [exec, execLdMemVx] at h
  obtain rfl := completeOrRaise_eq_of_ok h hok
  exact ⟨by simp, by simp, by simp, fun a => (State.incIndex_readByte _ x a).trans (hb a)⟩

/-- Settles O35: either store leaves the memory `b` behind it at the next word, which the next step then runs. -/
theorem storeSeenByNextFetch : Obligations.StoreSeenByNextFetch := by
  rintro x s t b op hpc hok hstore rfl
  have hnext : NextWordOver s b t := by
    rcases hstore with ⟨h, hb⟩ | ⟨h, hb⟩
    · exact ldMemVx_nextWordOver h hok fun a => (State.readByte_storeRegs s s _ a x).trans (hb a).symm
    · exact ldB_nextWordOver h hok fun a => (State.readByte_storeDigits s _ a _).trans (hb a).symm
  have hword := hnext.fetchWord hpc
  refine ⟨hword, fun hrun hfault i hd => ?_⟩
  rw [← hword] at hd ⊢
  refine step_eq_exec (hnext.execState.trans hrun) (hnext.faultValid.trans hfault) ?_ hd
  rw [State.fetchable_iff, hnext.toNat_pc hpc]
  omega

end Sys2Proof.Machine
end

section
/-! PROOF. O1 to O5: the encoder, the decoder and the opcode table agree (30_encoding R91 to R100).

The idea: a word is its fields, so each family of the decoder gives back the word it has read. With the encoder inverted
both ways, the rows of the table need no search: a word in a row decodes to an instruction of that row, hence two rows
that match one word are one. -/

namespace Sys2Proof

/-! ### The decoder after the encoder (R92, R96) -/

/-- By the format of the word: the decoder reads each field where the encoder has put it. -/
theorem decode_encode (i : Instr) : decode (encode i) = .instr i := by
  cases i with
  | cls | ret => rfl
  | jp _ | call _ | ldI _ | jpV0 _ => simp [encode, decode, fields_NNN]
  | seImm _ _ | sneImm _ _ | ldImm _ _ | addImm _ _ | rnd _ _ => simp [encode, decode, fields_XNN]
  | seReg _ _ | sneReg _ _ | drw _ _ _ => simp [encode, decode, fields_XYN]
  | ldReg _ _ | orReg _ _ | andReg _ _ | xorReg _ _ | addReg _ _ | subReg _ _ | shrReg _ _ | subnReg _ _
  | shlReg _ _ => simp [encode, decode, decode8, fields_XYN]
  | skp _ | sknp _ => simp [encode, decode, decodeE, fields_XNN]
  | ldVxDT _ | ldVxK _ | ldDTVx _ | ldSTVx _ | addI _ | ldF _ | ldB _ | ldMemVx _ | ldVxMem _ =>
    simp [encode, decode, decodeF, fields_XNN]

/-- Settles O1. -/
theorem decodeOfEncode : Obligations.DecodeOfEncode := decode_encode

/-- Settles O5: eight of the words are the encodings of what they stand for. -/
theorem sampleWordsDecode : Obligations.SampleWordsDecode :=
  ⟨decode_encode (.ldImm 3 0x2A), decode_encode (.drw 1 2 5), decode_encode (.addReg 0xA 0xB),
    decode_encode (.jp 0x234), decode_encode (.ldI 0x22A), decode_encode (.skp 4), decode_encode (.ldVxMem 2),
    decode_encode .ret, rfl⟩

/-! ### A word from its fields (R91, R92), its fixed fields known as the decoder compares them -/

theorem append_NNN_eq {op : Word} {a : Nibble} (hop : (fieldOP op).toNat = a.toNat) : a ++ fieldNNN op = op := by
  obtain rfl := BitVec.eq_of_toNat_eq hop
  apply BitVec.eq_of_getLsbD_eq
  intro i hi
  rw [BitVec.getLsbD_append]
  interval_cases i <;> simp [fieldOP, fieldNNN]

theorem append_X_NN_eq {op : Word} {a : Nibble} {nn : Byte} (hop : (fieldOP op).toNat = a.toNat)
    (hnn : (fieldNN op).toNat = nn.toNat) : a ++ fieldX op ++ nn = op := by
  obtain rfl := BitVec.eq_of_toNat_eq hop
  obtain rfl := BitVec.eq_of_toNat_eq hnn
  exact (word_eq_OP_X_NN op).symm

theorem append_X_Y_N_eq {op : Word} {a n : Nibble} (hop : (fieldOP op).toNat = a.toNat)
    (hn : (fieldN op).toNat = n.toNat) : a ++ fieldX op ++ fieldY op ++ n = op := by
  obtain rfl := BitVec.eq_of_toNat_eq hop
  obtain rfl := BitVec.eq_of_toNat_eq hn
  apply BitVec.eq_of_getLsbD_eq
  intro i hi
  rw [BitVec.getLsbD_append, BitVec.getLsbD_append, BitVec.getLsbD_append]
  interval_cases i <;> simp [fieldOP, fieldX, fieldY, fieldN]

/-! ### The encoder after the decoder (R96, R97) -/

theorem encode_of_decode0 {op : Word} {i : Instr} (h : decode0 op = .instr i) : encode i = op := by
  unfold decode0 at h
  split_ifs at h with hcls hret
  · cases h; exact hcls.symm
  · cases h; exact hret.symm

theorem encode_of_decode8 {op : Word} {i : Instr} (hop : (fieldOP op).toNat = 0x8) (h : decode8 op = .instr i) :
    encode i = op := by
  unfold decode8 at h
  split at h <;> cases h <;> exact append_X_Y_N_eq hop ‹_›

theorem encode_of_decodeE {op : Word} {i : Instr} (hop : (fieldOP op).toNat = 0xE) (h : decodeE op = .instr i) :
    encode i = op := by
  unfold decodeE at h
  split at h <;> cases h <;> exact append_X_NN_eq hop ‹_›

theorem encode_of_decodeF {op : Word} {i : Instr} (hop : (fieldOP op).toNat = 0xF) (h : decodeF op = .instr i) :
    encode i = op := by
  unfold decodeF at h
  split at h <;> cases h <;> exact append_X_NN_eq hop ‹_›

/-- By the sixteen arms of the decoder, grouped by the format of their words. -/
theorem encode_of_decode {op : Word} {i : Instr} (h : decode op = .instr i) : encode i = op := by
  unfold decode at h
  split at h
  case h_1 => exact encode_of_decode0 h
  case h_9 hop => exact encode_of_decode8 hop h
  case h_15 hop => exact encode_of_decodeE hop h
  case h_16 =>
    have hlt := (fieldOP op).isLt
    simp only [imp_false] at *
    exact encode_of_decodeF (by omega) h
  case h_2 hop | h_3 hop | h_11 hop | h_12 hop =>
    cases h
    exact append_NNN_eq hop
  case h_4 hop | h_5 hop | h_7 hop | h_8 hop | h_13 hop =>
    cases h
    exact append_X_NN_eq hop rfl
  case h_6 hop | h_10 hop =>
    split_ifs at h with hn
    cases h
    exact append_X_Y_N_eq hop (congrArg BitVec.toNat hn)
  case h_14 hop =>
    cases h
    exact append_X_Y_N_eq hop rfl

/-- Settles O2. -/
theorem encodeOfDecode : Obligations.EncodeOfDecode := fun _ _ => encode_of_decode

/-! ### The unimplemented words (R97, R100) -/

theorem decode0_eq_unimplemented_iff {op : Word} :
    decode0 op = .unimplemented op ↔ op ≠ 0x00E0#16 ∧ op ≠ 0x00EE#16 := by
  unfold decode0
  split_ifs <;> simp [*]

theorem decode8_eq_unimplemented_iff {op : Word} :
    decode8 op = .unimplemented op ↔ fieldN op ∈ [0x8#4, 0x9#4, 0xA#4, 0xB#4, 0xC#4, 0xD#4, 0xF#4] := by
  unfold decode8
  split
  case h_10 =>
    have hlt := (fieldN op).isLt
    simp only [imp_false] at *
    simp [← BitVec.toNat_inj]
    omega
  all_goals simp [← BitVec.toNat_inj, *]

theorem decodeE_eq_unimplemented_iff {op : Word} :
    decodeE op = .unimplemented op ↔ fieldNN op ∉ [0x9E#8, 0xA1#8] := by
  unfold decodeE
  split <;> simp_all [← BitVec.toNat_inj]

theorem decodeF_eq_unimplemented_iff {op : Word} : decodeF op = .unimplemented op ↔
    fieldNN op ∉ [0x07#8, 0x0A#8, 0x15#8, 0x18#8, 0x1E#8, 0x29#8, 0x33#8, 0x55#8, 0x65#8] := by
  unfold decodeF
  split <;> simp_all [← BitVec.toNat_inj]

/-- Settles O4, by the arms of the decoder: a lemma each for 0, 8, E and F; 5 and 9 ask only for `N`, and the other
arms reject nothing. -/
theorem unimplementedWords : Obligations.UnimplementedWords := by
  intro op
  simp only [← BitVec.toNat_inj (x := fieldOP op)]
  unfold decode
  split
  case h_1 hop => simp [hop, decode0_eq_unimplemented_iff]
  case h_9 hop => simp [hop, decode8_eq_unimplemented_iff]
  case h_15 hop => simp [hop, decodeE_eq_unimplemented_iff]
  case h_16 =>
    have hlt := (fieldOP op).isLt
    simp only [imp_false] at *
    have hop : (fieldOP op).toNat = 0xF := by omega
    simp [hop, decodeF_eq_unimplemented_iff]
  all_goals simp [*]

/-! ### The opcode table (R94) -/

/-- Where the mask covers a field, the field is that of the match. -/
theorem extract_eq_of_and {op mask bits : Word} {k l : Nat} (h : op &&& mask = bits)
    (hmask : mask.extractLsb' k l = BitVec.allOnes l) : op.extractLsb' k l = bits.extractLsb' k l := by
  rw [← h, BitVec.extractLsb'_and, hmask, BitVec.and_allOnes]

/-- By the mask of the row, which fixes the fields that the decoder compares. -/
theorem decode_of_and_tableRow {op : Word} {i : Instr} (h : op &&& (tableRow i).mask = (tableRow i).bits) :
    ∃ j, decode op = .instr j ∧ tableRow j = tableRow i := by
  cases i <;> dsimp only [tableRow] at h ⊢
  case cls | ret =>
    obtain rfl := (BitVec.and_allOnes (x := op)).symm.trans h
    exact ⟨_, rfl, rfl⟩
  case jp | call | ldI | jpV0 | seImm | sneImm | ldImm | addImm | rnd | drw =>
    have hop : fieldOP op = _ := extract_eq_of_and h rfl
    simp [decode, hop]
  case seReg | sneReg | ldReg | orReg | andReg | xorReg | addReg | subReg | shrReg | subnReg | shlReg =>
    have hop : fieldOP op = _ := extract_eq_of_and h rfl
    have hn : fieldN op = _ := extract_eq_of_and h rfl
    simp [decode, decode8, hop, hn]
  case skp | sknp | ldVxDT | ldVxK | ldDTVx | ldSTVx | addI | ldF | ldB | ldMemVx | ldVxMem =>
    have hop : fieldOP op = _ := extract_eq_of_and h rfl
    have hnn : fieldNN op = _ := extract_eq_of_and h rfl
    simp [decode, decodeE, decodeF, hop, hnn]

/-- One instruction of each row, in the order of the table. -/
def rowInstrs : List Instr :=
  [.cls, .ret, .jp 0, .call 0, .seImm 0 0, .sneImm 0 0, .seReg 0 0, .ldImm 0 0, .addImm 0 0, .ldReg 0 0, .orReg 0 0,
    .andReg 0 0, .xorReg 0 0, .addReg 0 0, .subReg 0 0, .shrReg 0 0, .subnReg 0 0, .shlReg 0 0, .sneReg 0 0, .ldI 0,
    .jpV0 0, .rnd 0 0, .drw 0 0 0, .skp 0, .sknp 0, .ldVxDT 0, .ldVxK 0, .ldDTVx 0, .ldSTVx 0, .addI 0, .ldF 0,
    .ldB 0, .ldMemVx 0, .ldVxMem 0]

theorem opcodeTable_eq_map_rowInstrs : opcodeTable = rowInstrs.map tableRow := rfl

theorem decode_of_mem_opcodeTable {op : Word} {r : TableRow} (hr : r ∈ opcodeTable) (h : op &&& r.mask = r.bits) :
    ∃ i, decode op = .instr i ∧ tableRow i = r := by
  rw [opcodeTable_eq_map_rowInstrs] at hr
  obtain ⟨i, -, rfl⟩ := List.mem_map.1 hr
  exact decode_of_and_tableRow h

theorem Laws.EncodesItsRow.of_instr (i : Instr) : Statement i := by
  cases i
  exacts [cls, ret, jp _, call _, seImm _ _, sneImm _ _, seReg _ _, ldImm _ _, addImm _ _, ldReg _ _, orReg _ _,
    andReg _ _, xorReg _ _, addReg _ _, subReg _ _, shrReg _ _, subnReg _ _, shlReg _ _, sneReg _ _, ldI _, jpV0 _,
    rnd _ _, drw _ _ _, skp _, sknp _, ldVxDT _, ldVxK _, ldDTVx _, ldSTVx _, addI _, ldF _, ldB _, ldMemVx _,
    ldVxMem _]

/-- Settles O3: a decoded word is the encoding of its instruction, which lies in the instruction's row; and a word in
two rows decodes to one instruction, which has one row. -/
theorem opcodeTableSelects : Obligations.OpcodeTableSelects := by
  refine ⟨rfl, fun op i hd => ?_, fun op r hr h => decode_of_mem_opcodeTable hr h, fun op r hr q hq h h' => ?_⟩
  · obtain rfl := encode_of_decode hd
    obtain ⟨-, hrow, hsel⟩ := Laws.EncodesItsRow.of_instr i
    exact ⟨hrow, of_decide_eq_true hsel⟩
  · obtain ⟨i, hi, rfl⟩ := decode_of_mem_opcodeTable hr h
    obtain ⟨j, hj, rfl⟩ := decode_of_mem_opcodeTable hq h'
    rw [Decoded.instr.inj (hi.symm.trans hj)]

end Sys2Proof
end

section
/-! PROOF. O6, O9: what a step that passes its gates does with the word it fetches. -/

namespace Sys2Proof.Machine

/-- The fetch is big-endian (30_encoding R90). -/
theorem State.fetchWord_eq_of_toNat {s : State} {op : Word} (h : op.toNat =
    (s.readByte s.pc.toNat).toNat * 256 + (s.readByte (s.pc.toNat + 1)).toNat) : s.fetchWord = op := by
  have hlow := (s.readByte (s.pc.toNat + 1)).isLt
  apply BitVec.eq_of_toNat_eq
  rw [h, State.fetchWord, wordOfBytes, BitVec.toNat_append, ← Nat.shiftLeft_add_eq_or_of_lt hlow, Nat.shiftLeft_eq]

/-- Settles O6. -/
theorem stepRunsDecoded : Obligations.StepRunsDecoded := by
  intro s op i hrun hfault hpc hop hd
  obtain rfl := State.fetchWord_eq_of_toNat hop
  exact step_eq_exec hrun hfault (s.fetchable_iff.2 hpc) hd

/-- A step past the gates that fetches an unimplemented opcode does what the policy says (30_encoding R101). -/
theorem step_eq_unimplementedOp {s : State} (hrun : s.execState = .running) (hfault : s.faultValid = false)
    (hfetch : s.fetchable = true) (hd : decode s.fetchWord = .unimplemented s.fetchWord) :
    step s = .next ((s.latchIr s.fetchWord).unimplementedOp s.fetchWord) := by
  simpa [step, hrun, hfault, hfetch, hd] using cycle_cases exec s

/-- Settles O9, by the policy. -/
theorem unimplementedPolicy : Obligations.UnimplementedPolicy := by
  rintro s op hrun hfault hpc rfl hd
  rw [step_eq_unimplementedOp hrun hfault (s.fetchable_iff.2 hpc) hd]
  rcases (s.latchIr s.fetchWord).unimplementedOp_cases s.fetchWord with ⟨hp, he⟩ | ⟨hp, he⟩ <;> rw [he]
  · exact ⟨fun _ => rfl, fun h => absurd (h.symm.trans hp) nofun⟩
  · exact ⟨fun h => absurd (h.symm.trans hp) nofun, fun _ => rfl⟩

end Sys2Proof.Machine
end

section
/-! PROOF. O7, O14, O43: the gates of a step, what no step changes, and a call that returns.

The idea of O14: every step keeps the host's side of a state or records a fault on it, and that state is the one the
step found, with the fetched word latched when there is one. -/

namespace Sys2Proof.Machine

/-! ### The gates (40_fetch_step R121) -/

theorem step_of_quit {s : State} (h : s.execState = .quit) : step s = .next s := by
  rw [step, cycle, h]

theorem step_of_paused {s : State} (h : s.execState = .paused) : step s = .next (s.setStatus .suppressed) := by
  rw [step, cycle, h]

theorem step_of_faulted {s : State} (hrun : s.execState = .running) (hfault : s.faultValid = true) :
    step s = .next (s.setStatus .faulted) := by
  rw [step, cycle, hrun]
  exact if_pos hfault

/-- Settles O7, gate by gate. -/
theorem stepGating : Obligations.StepGating :=
  fun _ => ⟨step_of_quit, step_of_paused, step_of_faulted⟩

/-! ### What no step changes (40_fetch_step R126) -/

theorem KeepsHostSide.refl (s : State) : KeepsHostSide s s := by simp [KeepsHostSide]

theorem KeepsHostSide.setStatus {s u : State} (h : KeepsHostSide s u) (v : StepStatus) :
    KeepsHostSide s (u.setStatus v) := h

/-- The host's side of `s` is kept, or the first fault is recorded on `s` (60_exceptions R284). -/
def KeepsOrRaises (s t : State) : Prop :=
  KeepsHostSide s t ∨ s.faultValid = false ∧ ∃ code info, t = s.raise code info

theorem KeepsOrRaises.raise {s : State} (h : s.faultValid = false) (code : FaultCode) (info : Word) :
    KeepsOrRaises s (s.raise code info) := .inr ⟨h, code, info, rfl⟩

theorem KeepsOrRaises.ir {s t : State} (h : KeepsOrRaises s t) : t.ir = s.ir := by
  rcases h with ⟨-, -, hir, -⟩ | ⟨-, code, info, rfl⟩
  · exact hir
  · exact s.raise_ir code info

theorem KeepsOrRaises.inputs {s t : State} (h : KeepsOrRaises s t) :
    t.execState = s.execState ∧ t.keypad = s.keypad ∧ t.cfg = s.cfg := by
  rcases h with ⟨hkeys, hexec, -, hcfg, -⟩ | ⟨-, code, info, rfl⟩
  · exact ⟨hexec, hkeys, hcfg⟩
  · exact ⟨s.raise_execState code info, s.raise_keypad code info, s.raise_cfg code info⟩

/-- Only a step that records the first fault touches the fault record. -/
theorem KeepsOrRaises.faultRecord {s t : State} (h : KeepsOrRaises s t)
    (hf : s.faultValid = true ∨ t.faultValid = false) :
    t.faultValid = s.faultValid ∧ t.faultCode = s.faultCode ∧ t.faultPc = s.faultPc ∧ t.faultInfo = s.faultInfo := by
  rcases h with ⟨-, -, -, -, hrecord⟩ | ⟨hs, code, info, rfl⟩
  · exact hrecord
  · simp [hs] at hf

theorem exec_keepsOrRaises {i : Instr} {s t : State} (hs : s.faultValid = false) (h : exec i s = .next t) :
    KeepsOrRaises s t := by
  rcases exec_cases i s with ⟨u, he, hu⟩ | ⟨code, info, he, -⟩
  · obtain rfl := Host.Outcome.next.inj (he.symm.trans h)
    exact .inl (hu.setStatus .ok)
  · obtain rfl := Host.Outcome.next.inj (he.symm.trans h)
    exact .raise hs code info

theorem unimplementedOp_keepsOrRaises {s : State} (hs : s.faultValid = false) (op : Word) :
    KeepsOrRaises s (s.unimplementedOp op) := by
  rcases s.unimplementedOp_cases op with ⟨-, he⟩ | ⟨-, he⟩ <;> rw [he]
  · exact .inl (KeepsHostSide.refl s)
  · exact .raise hs .unimplementedOpcode op

/-- A step that fetches answers from the state with the fetched word latched, any other from the state it found. -/
theorem step_keepsOrRaises {s t : State} (h : step s = .next t) :
    (¬ (CanStep s ∧ s.fetchable = true) ∧ KeepsOrRaises s t) ∨ KeepsOrRaises (s.latchIr s.fetchWord) t := by
  have hkeep : KeepsHostSide s s := .refl s
  rw [step] at h
  rcases cycle_cases exec s with ⟨hq, he⟩ | ⟨hp, he⟩ | ⟨-, hf, he⟩ | ⟨-, hf, hnofetch, he⟩ |
    ⟨-, hf, -, i, -, he⟩ | ⟨-, hf, -, -, he⟩ <;> rw [he] at h
  case inr.inr.inr.inr.inl => exact .inr (exec_keepsOrRaises hf h)
  all_goals obtain rfl := Host.Outcome.next.inj h
  · exact .inl ⟨by simp [CanStep, hq], .inl hkeep⟩
  · exact .inl ⟨by simp [CanStep, hp], .inl (hkeep.setStatus _)⟩
  · exact .inl ⟨by simp [CanStep, hf], .inl (hkeep.setStatus _)⟩
  · exact .inl ⟨by simp [hnofetch], .raise hf _ _⟩
  · exact .inr (unimplementedOp_keepsOrRaises (s := s.latchIr s.fetchWord) hf _)

/-- Settles O14: latching `ir` changes nothing else, so both answers of a step give the frame, and the one that
fetches gives `ir`. -/
theorem stepNeverChanges : Obligations.StepNeverChanges := by
  intro s t h
  rcases step_keepsOrRaises h with ⟨hno, hk⟩ | hk <;> obtain ⟨hexec, hkeys, hcfg⟩ := hk.inputs
  · exact ⟨hexec, hkeys, hcfg, hk.faultRecord,
      fun hrun hf hpc => absurd ⟨⟨hrun, hf⟩, s.fetchable_iff.2 hpc⟩ hno⟩
  · exact ⟨hexec, hkeys, hcfg, hk.faultRecord, fun _ _ _ => hk.ir⟩

/-! ### A call and the return behind it (41_control_flow R140, R142) -/

/-- A call with room on the stack. -/
theorem exec_call_eq (nnn : Addr) {s : State} (h : s.sp.val < 16) :
    exec (.call nnn) s = .next { s with
      stack := s.stack.set s.sp.val (s.pc + 2#16) h, sp := ⟨s.sp.val + 1, by omega⟩, pc := zextAddr nnn,
      status := .ok } := by
  rw [exec, execCall, completeOrRaise, if_pos (decide_eq_true h), State.pushReturn_eq s.advance _ h]
  rfl

/-- A return with an address on the stack. -/
theorem exec_ret_eq {s : State} (h : 0 < s.sp.val) :
    exec .ret s = .next { s with
      sp := ⟨s.sp.val - 1, by omega⟩, pc := s.stack[s.sp.val - 1]'(by omega), status := .ok } := by
  rw [exec, execRet, completeOrRaise, if_pos (decide_eq_true h), State.popReturn_eq s.advance h]
  rfl

theorem step_of_call {s : State} {nnn : Addr} (hrun : s.execState = .running) (hfault : s.faultValid = false)
    (hfetch : s.fetchable = true) (hd : decode s.fetchWord = .instr (.call nnn)) (h : s.sp.val < 16) :
    step s = .next { s with
      stack := s.stack.set s.sp.val (s.pc + 2#16) h, sp := ⟨s.sp.val + 1, by omega⟩, pc := zextAddr nnn,
      ir := s.fetchWord, status := .ok } :=
  (step_eq_exec hrun hfault hfetch hd).trans (exec_call_eq nnn (s := s.latchIr s.fetchWord) h)

theorem step_of_ret {s : State} (hrun : s.execState = .running) (hfault : s.faultValid = false)
    (hfetch : s.fetchable = true) (hd : decode s.fetchWord = .instr .ret) (h : 0 < s.sp.val) :
    step s = .next { s with
      sp := ⟨s.sp.val - 1, by omega⟩, pc := s.stack[s.sp.val - 1]'(by omega), ir := s.fetchWord, status := .ok } :=
  (step_eq_exec hrun hfault hfetch hd).trans (exec_ret_eq (s := s.latchIr s.fetchWord) h)

theorem runSchedule_step_cons {s u : State} (h : step s = .next u) (ops : List HostOp) :
    runSchedule (.step :: ops) s = runSchedule ops u := by
  rw [runSchedule, invoke, h]

/-- Settles O43: the call leaves the memory alone, so the return at `NNN` runs next, and it pops the slot that the call
has just set. -/
theorem callThenReturn : Obligations.CallThenReturn := by
  intro nnn s hrun hfault hpc hcall hsp hnnn hret
  rw [← zextAddr_toNat] at hnnn hret
  rw [runSchedule_step_cons (step_of_call hrun hfault (s.fetchable_iff.2 hpc) hcall hsp),
    runSchedule_step_cons (step_of_ret ?running ?noFault ?fetch ?decodes ?slot)]
  case running => exact hrun
  case noFault => exact hfault
  case fetch => exact (State.fetchable_iff _).2 hnnn
  case decodes => exact hret
  case slot => exact Nat.succ_pos _
  exact ⟨_, rfl, Vector.getElem_set_self .., rfl, rfl, rfl⟩

end Sys2Proof.Machine
end

section
/-! PROOF. O19 to O24: control transfer and skips (41_control_flow).

The idea: a jump and a skip complete as one `setPc`, so both have the frame of `setPc`; a call and a return are the
states of `exec_call_eq` and `exec_ret_eq` while their check passes, and record their fault when it does not. -/

namespace Sys2Proof.Machine

/-! ### Call and return (41_control_flow R140, R142) -/

/-- `StackUnderflow` at `pc0` (60_exceptions R288). -/
theorem exec_ret_of_empty {s : State} (h : s.sp.val = 0) : exec .ret s = .next (s.raise .stackUnderflow s.ir) := by
  have hfail : decide (0 < s.sp.val) = false := decide_eq_false (by omega)
  rw [exec, execRet, completeOrRaise, hfail]
  rfl

/-- `StackOverflow` at `pc0` (60_exceptions R287). -/
theorem exec_call_of_full (nnn : Addr) {s : State} (h : s.sp.val = 16) :
    exec (.call nnn) s = .next (s.raise .stackOverflow s.ir) := by
  have hfail : decide (s.sp.val < 16) = false := decide_eq_false (by omega)
  rw [exec, execCall, completeOrRaise, hfail]
  rfl

/-- Settles O19, by whether the stack holds an address. -/
theorem returnPops : Obligations.ReturnPops := by
  refine ⟨rfl, fun s => ⟨fun hsome => ?_, exec_ret_of_empty⟩⟩
  exact ⟨_, exec_ret_eq hsome, rfl, rfl, rfl, rfl, fun _ _ => rfl, fun _ => rfl⟩

/-- Settles O21, by whether the stack has room. -/
theorem callPushes : Obligations.CallPushes := by
  refine fun nnn s => ⟨rfl, fun hroom => ?_, exec_call_of_full nnn⟩
  exact ⟨_, exec_call_eq nnn hroom, rfl, rfl, zextAddr_toNat nnn, rfl, rfl, fun _ _ => rfl, fun _ => rfl⟩

/-! ### Jumps (R141, R147) -/

theorem onlyFlow_setPc (s : State) (target : Word) (v : StepStatus) : OnlyFlow s ((s.setPc target).setStatus v) :=
  ⟨rfl, fun _ _ => rfl, fun _ => rfl⟩

theorem exec_jp_eq (nnn : Addr) (s : State) : exec (.jp nnn) s = complete (s.setPc (zextAddr nnn)) := rfl

theorem exec_jpV0_eq (nnn : Addr) (s : State) :
    exec (.jpV0 nnn) s = complete (s.setPc (zextAddr nnn + zextByte (s.reg 0))) := rfl

/-- The target of BNNN is the exact sum: it stays below 2^16. -/
theorem toNat_zextAddr_add_zextByte (nnn : Addr) (v : Byte) :
    (zextAddr nnn + zextByte v).toNat = nnn.toNat + v.toNat := by
  have := nnn.isLt
  have := v.isLt
  simp only [BitVec.toNat_add, zextAddr_toNat, zextByte, BitVec.toNat_setWidth]
  omega

/-- Settles O20. -/
theorem jumpAbsolute : Obligations.JumpAbsolute :=
  fun nnn s => ⟨rfl, _, exec_jp_eq nnn s, zextAddr_toNat nnn, rfl, onlyFlow_setPc s _ _⟩

/-- Settles O24. -/
theorem jumpWithOffset : Obligations.JumpWithOffset :=
  fun nnn s => ⟨rfl, _, exec_jpV0_eq nnn s, toNat_zextAddr_add_zextByte nnn _, rfl, onlyFlow_setPc s _ _⟩

/-! ### Skips (R143 to R146, R148) -/

/-- A skip behind the advance goes to `pc0 + 4` when its condition holds, else to `pc0 + 2`. -/
theorem State.skipIf_advance_eq_setPc {s : State} {b : Bool} {c : Prop} [Decidable c] (hc : b = true ↔ c) :
    s.advance.skipIf b = s.setPc (if c then s.pc + 4#16 else s.pc + 2#16) := by
  by_cases h : c
  · have hsum : s.pc + 2#16 + 2#16 = s.pc + 4#16 := BitVec.add_assoc ..
    rw [State.skipIf, if_pos (hc.2 h), if_pos h, ← hsum]
    rfl
  · rw [State.skipIf, if_neg (mt hc.1 h), if_neg h]
    rfl

/-- What an instruction does that is a skip on the condition `c` and nothing else. -/
theorem exec_skip {i : Instr} {s : State} {b : Bool} {c : Prop} [Decidable c]
    (he : exec i s = complete (s.advance.skipIf b)) (hc : b = true ↔ c) :
    ∃ t, exec i s = .next t ∧ t.pc = (if c then s.pc + 4#16 else s.pc + 2#16) ∧ t.status = .ok ∧ OnlyFlow s t := by
  rw [State.skipIf_advance_eq_setPc hc] at he
  exact ⟨_, he, rfl, rfl, onlyFlow_setPc s _ _⟩

/-- Settles O22. -/
theorem skipOnImmediate : Obligations.SkipOnImmediate :=
  fun _ _ _ => ⟨rfl, rfl, exec_skip rfl beq_iff_eq, exec_skip rfl bne_iff_ne⟩

/-- Settles O23. -/
theorem skipOnRegisters : Obligations.SkipOnRegisters :=
  fun _ _ _ => ⟨rfl, rfl, exec_skip rfl beq_iff_eq, exec_skip rfl bne_iff_ne⟩

end Sys2Proof.Machine
end

section
/-! PROOF. O25 to O30: load, ALU and random (42_load_alu).

The idea: each of these instructions completes as one register write behind the advance, or as one write of a result
and a flag, so two lemmas give the completion and the frame of them all, and what is left of an instruction is the
arithmetic of its value and of its flag. -/

namespace Sys2Proof.Machine

/-! ### The frame of a register write (40_fetch_step R125) -/

theorem State.reg_setReg_self (s : State) (x : Nibble) (v : Byte) : (s.setReg x v).reg x = v := by
  rw [State.reg_setReg, if_pos rfl]

theorem regsSameBut_setReg (s : State) (x : Nibble) (v : Byte) : RegsSameBut [x] s (s.setReg x v) := by
  intro r hr
  rw [State.reg_setReg, if_neg (List.ne_of_not_mem_cons hr)]

theorem regsSameBut_setRegFlag (s : State) (x : Nibble) (v f : Byte) :
    RegsSameBut [x, 0xF#4] s (s.setRegFlag x v f) := by
  intro r hr
  obtain ⟨hx, hF⟩ : r ≠ x ∧ r ≠ 0xF#4 := by simpa using hr
  rw [State.reg_setRegFlag, if_neg hF, if_neg hx]

/-- An instruction that writes VX and no flag: VF keeps its value unless X is F. -/
theorem exec_writesReg {i : Instr} {s : State} {x : Nibble} {v : Byte}
    (he : exec i s = complete (s.advance.setReg x v)) :
    ∃ t, exec i s = .next t ∧ t.reg x = v ∧ Completed s t ∧ OnlyRegs [x] s t :=
  ⟨_, he, State.reg_setReg_self s.advance x v, ⟨rfl, rfl⟩, rfl, regsSameBut_setReg s.advance x v, fun _ => rfl⟩

/-- An instruction that writes a result and then a flag: with X = F the flag stands (D10). -/
theorem exec_writesRegFlag {i : Instr} {s : State} {x : Nibble} {v f : Byte} {n : Nat}
    (he : exec i s = complete (s.advance.setRegFlag x v f)) (hn : v.toNat = n) :
    ∃ t, exec i s = .next t ∧ (x ≠ 0xF#4 → (t.reg x).toNat = n) ∧ t.reg 0xF#4 = f ∧
      Completed s t ∧ OnlyRegs [x, 0xF#4] s t := by
  have hreg := State.reg_setRegFlag s.advance x
  refine ⟨_, he, fun hx => ?_, hreg 0xF#4 v f, ⟨rfl, rfl⟩, rfl, regsSameBut_setRegFlag s.advance x v f, fun _ => rfl⟩
  have hresult : (s.advance.setRegFlag x v f).reg x = v := by rw [hreg, if_neg hx, if_pos rfl]
  exact (congrArg BitVec.toNat hresult).trans hn

/-! ### Results and flags as numbers (42_load_alu R172) -/

theorem flagByte_decide (c : Prop) [Decidable c] : flagByte (decide c) = if c then 1 else 0 := by
  by_cases h : c <;> simp [flagByte, h]

theorem toNat_flagByte (b : Bool) : (flagByte b).toNat = b.toNat := by cases b <;> rfl

theorem toNat_byte_sub (a b : Byte) : (a - b).toNat = (a.toNat + 256 - b.toNat) % 256 := by
  have := b.isLt
  rw [BitVec.toNat_sub]
  omega

theorem carryFlag_eq (a b : Byte) : carryFlag a b = if a.toNat + b.toNat > 255 then 1 else 0 := flagByte_decide _

theorem notBorrowFlag_eq (a b : Byte) : notBorrowFlag a b = if a.toNat ≥ b.toNat then 1 else 0 := flagByte_decide _

theorem toNat_shiftRightFlag (v : Byte) : (shiftRightFlag v).toNat = v.toNat % 2 := by
  rw [shiftRightFlag, toNat_flagByte, BitVec.getLsbD, Nat.toNat_testBit]
  omega

theorem toNat_shiftLeftFlag (v : Byte) : (shiftLeftFlag v).toNat = v.toNat / 128 := by
  have := v.isLt
  rw [shiftLeftFlag, toNat_flagByte, BitVec.getLsbD, Nat.toNat_testBit]
  omega

theorem toNat_byte_shiftRight_one (v : Byte) : (v >>> 1).toNat = v.toNat / 2 := by
  rw [BitVec.toNat_ushiftRight, Nat.shiftRight_one]

theorem toNat_byte_shiftLeft_one (v : Byte) : (v <<< 1).toNat = 2 * v.toNat % 256 := by
  rw [BitVec.toNat_shiftLeft, Nat.shiftLeft_eq, Nat.mul_comm]

theorem State.shiftSource_eq (s : State) (x y : Nibble) :
    s.shiftSource x y = if s.cfg.shiftSrc = .y then s.reg y else s.reg x := by
  unfold State.shiftSource
  cases s.cfg.shiftSrc <;> rfl

/-! ### Instructions without a flag (R160 to R165, R171) -/

/-- Settles O25. -/
theorem loadAndAddImmediate : Obligations.LoadAndAddImmediate := by
  refine fun x nn s => ⟨rfl, rfl, exec_writesReg rfl, ?_⟩
  obtain ⟨t, ht, hx, hdone, honly⟩ := exec_writesReg (i := .addImm x nn) (s := s) rfl
  exact ⟨t, ht, hx ▸ BitVec.toNat_add .., hdone, honly⟩

/-- Settles O26. -/
theorem copyAndLogic : Obligations.CopyAndLogic :=
  fun _ _ _ => ⟨rfl, rfl, rfl, rfl, exec_writesReg rfl, exec_writesReg rfl, exec_writesReg rfl, exec_writesReg rfl⟩

/-- CXNN writes VX on the state that has counted the draw (46_host_operations R260). -/
theorem exec_rnd_eq (x : Nibble) (nn : Byte) (s : State) :
    exec (.rnd x nn) s = complete (s.advance.countDraw.setReg x (Config.rnd s.draws &&& nn)) := rfl

/-- Settles O30: nothing is used of the drawn byte, and a mask of 0 leaves nothing of it. -/
theorem randomMasked : Obligations.RandomMasked := by
  intro x nn s
  have hreg := State.reg_setReg_self s.advance.countDraw x (Config.rnd s.draws &&& nn)
  refine ⟨rfl, _, exec_rnd_eq x nn s, hreg, fun hnn => hreg.trans ?_, rfl, ⟨rfl, rfl⟩, rfl,
    regsSameBut_setReg s.advance.countDraw x _, fun _ => rfl⟩
  rw [hnn]
  exact BitVec.and_zero

/-! ### Instructions with a flag (R166 to R170) -/

/-- Settles O27. -/
theorem addWithCarry : Obligations.AddWithCarry := by
  intro x y s
  rw [← carryFlag_eq]
  exact ⟨rfl, exec_writesRegFlag rfl (BitVec.toNat_add ..)⟩

/-- Settles O28. -/
theorem subtractions : Obligations.Subtractions := by
  intro x y s
  rw [← notBorrowFlag_eq, ← notBorrowFlag_eq]
  exact ⟨rfl, rfl, exec_writesRegFlag rfl (toNat_byte_sub ..), exec_writesRegFlag rfl (toNat_byte_sub ..)⟩

/-- Settles O29, for the value that SHIFT_SRC selects. -/
theorem shifts : Obligations.Shifts := by
  rintro x y s v hv
  rw [← State.shiftSource_eq] at hv
  subst hv
  obtain ⟨t, ht, htx, htF, htDone, htOnly⟩ :=
    exec_writesRegFlag (i := .shrReg x y) (s := s) rfl (toNat_byte_shiftRight_one _)
  obtain ⟨u, hu, hux, huF, huDone, huOnly⟩ :=
    exec_writesRegFlag (i := .shlReg x y) (s := s) rfl (toNat_byte_shiftLeft_one _)
  exact ⟨rfl, rfl, ⟨t, ht, htx, htF ▸ toNat_shiftRightFlag _, htDone, htOnly⟩,
    ⟨u, hu, hux, huF ▸ toNat_shiftLeftFlag _, huDone, huOnly⟩⟩

end Sys2Proof.Machine
end

section
/-! PROOF. O31 to O34: the index register and memory transfer (43_index_memory).

The idea: the writes of `I` share one frame lemma. The three transfers are an action behind one range check: out of
range they record the same fault, and in range each answers a state written out field by field, so its frame is read
off, and what is left is what the stored or loaded bytes are. -/

namespace Sys2Proof.Machine

/-! ### Writes of `I` (R190 to R192) -/

/-- An instruction that writes `I` and nothing else. -/
theorem exec_writesIndex {i : Instr} {s : State} {v : Word} {n : Nat}
    (he : exec i s = complete (s.advance.setI v)) (hn : v.toNat = n) :
    ∃ t, exec i s = .next t ∧ t.I.toNat = n ∧ Completed s t ∧ OnlyIndex s t :=
  ⟨_, he, hn, ⟨rfl, rfl⟩, rfl, fun _ _ => rfl, fun _ => rfl⟩

theorem toNat_zextByte (v : Byte) : (zextByte v).toNat = v.toNat :=
  BitVec.toNat_setWidth_of_le (by decide)

theorem toNat_add_zextByte (w : Word) (v : Byte) : (w + zextByte v).toNat = (w.toNat + v.toNat) % 65536 := by
  rw [BitVec.toNat_add, toNat_zextByte]

/-- VX is not masked: a value above 15 counts in full (R192). -/
theorem State.toNat_glyphAddress (s : State) (x : Nibble) :
    (s.glyphAddress x).toNat = (s.cfg.fontBase.toNat + 5 * (s.reg x).toNat) % 65536 := by
  rw [State.glyphAddress, BitVec.toNat_add, BitVec.toNat_mul, toNat_zextByte]
  exact Nat.add_mod_mod ..

/-- Settles O31. -/
theorem indexWrites : Obligations.IndexWrites :=
  fun nnn x s => ⟨rfl, rfl, rfl, exec_writesIndex rfl (zextAddr_toNat nnn),
    exec_writesIndex rfl (toNat_add_zextByte ..), exec_writesIndex rfl (s.toNat_glyphAddress x)⟩

/-! ### The range check of a transfer (R196, 60_exceptions R285) -/

/-- The last byte of an access from `I` decides whether it is in range. -/
theorem State.dataInRange_succ_iff (s : State) (k : Nat) :
    s.dataInRange (k + 1) = true ↔ s.I.toNat + k ≤ 0xFFF := by
  rw [State.dataInRange_iff, memSize]
  omega

theorem State.toNat_lowestBad (s : State) : s.lowestBad.toNat = max s.I.toNat 0x1000 := by
  unfold State.lowestBad
  split
  · rw [max_eq_right ‹_›]
    rfl
  · rw [max_eq_left (by omega)]

/-- A transfer in range runs its action on the advanced state (40_fetch_step R123). -/
theorem exec_of_inRange {i : Instr} {s : State} {k : Nat} {action : State → State}
    (he : exec i s = completeOrRaise (s.dataInRange (k + 1)) .memRange s.lowestBad s action)
    (h : s.I.toNat + k ≤ 0xFFF) : exec i s = .next ((action s.advance).setStatus .ok) := by
  rw [he, completeOrRaise, if_pos ((s.dataInRange_succ_iff k).2 h), complete]

/-- A transfer out of range records `MemRange` with `max(I, 0x1000)` (D3). -/
theorem exec_of_outOfRange {i : Instr} {s : State} {k : Nat} {action : State → State}
    (he : exec i s = completeOrRaise (s.dataInRange (k + 1)) .memRange s.lowestBad s action)
    (h : 0xFFF < s.I.toNat + k) :
    ∃ t, exec i s = .next t ∧ Recorded .memRange t.faultInfo s t ∧ t.faultInfo.toNat = max s.I.toNat 0x1000 := by
  have hfail : ¬ s.dataInRange (k + 1) = true := by
    rw [State.dataInRange_succ_iff]
    omega
  rw [completeOrRaise, if_neg hfail] at he
  exact ⟨_, he, rfl, s.toNat_lowestBad⟩

/-! ### FX33 (R193) -/

/-- FX33 in range. -/
theorem exec_ldB_eq (x : Nibble) {s : State} (h : s.I.toNat + 2 ≤ 0xFFF) :
    exec (.ldB x) s = .next { s with
      mem := (s.storeBytes s.I.toNat (decimalDigits (s.reg x))).mem, pc := s.pc + 2#16, status := .ok } :=
  exec_of_inRange (i := .ldB x) (execLdB.eq_1 x s) h

theorem State.toNat_readByte_storeDigits (s : State) (a : Nat) (v : Byte) :
    ((s.storeBytes a (decimalDigits v)).readByte a).toNat = v.toNat / 100 ∧
    ((s.storeBytes a (decimalDigits v)).readByte (a + 1)).toNat = v.toNat / 10 % 10 ∧
    ((s.storeBytes a (decimalDigits v)).readByte (a + 2)).toNat = v.toNat % 10 := by
  have hv := v.isLt
  simp only [State.readByte_storeDigits, Nat.add_eq_left, Nat.add_left_cancel_iff, one_ne_zero, OfNat.ofNat_ne_zero,
    OfNat.ofNat_ne_one, reduceIte, BitVec.toNat_ofNat]
  omega

/-- Settles O32, by whether the three bytes lie in the RAM. -/
theorem storeDecimal : Obligations.StoreDecimal := by
  refine fun x s => ⟨rfl, fun hin => ?_, exec_of_outOfRange (execLdB.eq_1 x s)⟩
  obtain ⟨hundreds, tens, ones⟩ := s.toNat_readByte_storeDigits s.I.toNat (s.reg x)
  exact ⟨_, exec_ldB_eq x hin, hundreds, tens, ones, memSameOutside_storeBytes s s.I.toNat (decimalDigits (s.reg x)),
    ⟨rfl, rfl⟩, rfl, fun _ _ => rfl⟩

/-! ### `I` after FX55 and FX65 (R194, R195) -/

/-- The value that `State.incIndex` leaves in `I`. -/
def State.indexPast (s : State) (x : Nibble) : Word :=
  if s.cfg.loadStoreIncI then s.I + x.setWidth 16 + 1#16 else s.I

theorem State.incIndex_eq_setI (s : State) (x : Nibble) : s.incIndex x = s.setI (s.indexPast x) := by
  unfold State.incIndex State.indexPast
  split <;> rfl

/-- The increment does not wrap behind a transfer in range. -/
theorem State.toNat_indexPast {s : State} {x : Nibble} (h : s.I.toNat + x.toNat ≤ 0xFFF) :
    (s.indexPast x).toNat = if s.cfg.loadStoreIncI = true then s.I.toNat + x.toNat + 1 else s.I.toNat := by
  unfold State.indexPast
  split
  · bv_omega
  · rfl

/-! ### FX55 (R194) -/

/-- FX55 in range. -/
theorem exec_ldMemVx_eq {x : Nibble} {s : State} (h : s.I.toNat + x.toNat ≤ 0xFFF) :
    exec (.ldMemVx x) s = .next { s with
      mem := (s.storeBytes s.I.toNat (s.regsUpTo x)).mem, I := s.indexPast x, pc := s.pc + 2#16, status := .ok } := by
  rw [exec_of_inRange (i := .ldMemVx x) (execLdMemVx.eq_1 x s) h, State.incIndex_eq_setI]
  rfl

theorem State.readByte_storeRegs_of_le (s : State) (a : Nat) {x k : Nibble} (hk : k.toNat ≤ x.toNat) :
    (s.storeBytes a (s.regsUpTo x)).readByte (a + k.toNat) = s.reg k := by
  rw [State.readByte_storeRegs, if_pos (by omega), Nat.add_sub_cancel_left, BitVec.ofNat_toNat, BitVec.setWidth_eq]

/-- Settles O33, by whether the bytes of V0 to VX lie in the RAM. -/
theorem storeRegisters : Obligations.StoreRegisters := by
  refine fun x s => ⟨rfl, fun hin => ?_, exec_of_outOfRange (execLdMemVx.eq_1 x s)⟩
  have houtside := memSameOutside_storeBytes s s.I.toNat (s.regsUpTo x)
  rw [State.regsUpTo_length] at houtside
  exact ⟨_, exec_ldMemVx_eq hin, fun _ => s.readByte_storeRegs_of_le s.I.toNat, State.toNat_indexPast hin, houtside,
    ⟨rfl, rfl⟩, rfl, fun _ _ => rfl⟩

/-! ### FX65 (R195) -/

/-- A load behind the advance writes registers only. -/
theorem State.loadRegs_advance_eq (s : State) (n : Nat) :
    s.advance.loadRegs n = { s with V := (s.loadRegs n).V, pc := s.pc + 2#16 } := by
  induction n with
  | zero => rfl
  | succ k ih => exact congrArg (State.setReg · (BitVec.ofNat 4 k) (s.readByte (s.I.toNat + k))) ih

/-- FX65 in range. -/
theorem exec_ldVxMem_eq {x : Nibble} {s : State} (h : s.I.toNat + x.toNat ≤ 0xFFF) :
    exec (.ldVxMem x) s = .next { s with
      V := (s.loadRegs (x.toNat + 1)).V, I := s.indexPast x, pc := s.pc + 2#16, status := .ok } := by
  rw [exec_of_inRange (i := .ldVxMem x) (execLdVxMem.eq_1 x s) h, State.incIndex_eq_setI, State.loadRegs_advance_eq]
  rfl

theorem State.reg_loadRegs_succ (s : State) (x k : Nibble) :
    (s.loadRegs (x.toNat + 1)).reg k = if k.toNat ≤ x.toNat then s.readByte (s.I.toNat + k.toNat) else s.reg k := by
  simp only [s.reg_loadRegs (x.toNat + 1) x.isLt k, Nat.lt_succ_iff]

/-- Settles O34, by whether the bytes from `I` lie in the RAM. -/
theorem loadRegisters : Obligations.LoadRegisters := by
  refine fun x s => ⟨rfl, fun hin => ?_, exec_of_outOfRange (execLdVxMem.eq_1 x s)⟩
  exact ⟨_, exec_ldVxMem_eq hin, s.reg_loadRegs_succ x, State.toNat_indexPast hin, ⟨rfl, rfl⟩, rfl, fun _ => rfl⟩

end Sys2Proof.Machine
end

section
/-! PROOF. O15, O36, O37, O38: the framebuffer and its dirty flag (44_display).

The idea: a DXYN that passes its check leaves the state `State.drawn`, whose cells are those before XORed with
`State.spriteCovers` and whose VF says whether a covered cell was on. A second DXYN finds its operands unchanged, so it
covers the same cells, and two XORs with one sprite cancel. -/

namespace Sys2Proof.Machine

/-! ### What leaves the screen alone (44_display R214) -/

/-- The framebuffer and the dirty flag are as before. -/
def KeepsScreen (s t : State) : Prop := t.fb = s.fb ∧ t.dirty = s.dirty

/-- Settles O15, by the instruction: of the updates an instruction is made of, `State.show` alone writes the two
fields, and only 00E0 and DXYN use it. -/
theorem onlyDisplayWritesScreen : Obligations.OnlyDisplayWritesScreen := by
  intro i s t h hcls hdrw
  cases i with
  | cls => exact absurd rfl hcls
  | drw x y n => exact absurd rfl (hdrw x y n)
  | ret | call _ | skp _ | sknp _ | ldB _ | ldMemVx _ | ldVxMem _ =>
    simp only [exec, execRet, execCall, execSkp, execSknp, execLdB, execLdMemVx, execLdVxMem] at h
    exact completeOrRaise_next (P := KeepsScreen s) h (by simp [KeepsScreen]) ⟨rfl, rfl⟩
  | ldVxK x =>
    exact execLdVxK_next (P := KeepsScreen s) h (by simp [KeepsScreen]) ⟨rfl, rfl⟩ ⟨rfl, rfl⟩
  | seImm _ _ | sneImm _ _ | seReg _ _ | sneReg _ _ =>
    exact complete_next (P := KeepsScreen s) h ⟨State.skipIf_fb _ _, State.skipIf_dirty _ _⟩
  | _ => exact complete_next (P := KeepsScreen s) h ⟨rfl, rfl⟩

/-! ### 00E0 (R210) -/

theorem cellAt_blankScreen {u v : Nat} (hu : u < 64) (hv : v < 32) : cellAt blankScreen u v = false := by
  simp [cellAt, blankScreen, blankRow, Vector.getD, hu, hv]

/-- Settles O36. -/
theorem clearScreen : Obligations.ClearScreen :=
  ⟨rfl, fun _ => ⟨_, rfl, fun _ _ => cellAt_blankScreen, rfl, ⟨rfl, rfl⟩, rfl, fun _ _ => rfl, fun _ => rfl⟩⟩

/-! ### The cells of a sprite (R211, R213) -/

theorem coversCell_bounds {row : Nat → Byte} {x0 y0 cols rows u v : Nat}
    (h : coversCell row x0 y0 cols rows u v = true) : u < x0 + cols ∧ v < y0 + rows := by
  simp only [coversCell, coversColumn, Bool.and_eq_true, decide_eq_true_eq] at h
  obtain ⟨⟨-, hv⟩, ⟨-, hu⟩, -⟩ := h
  exact ⟨hu, hv⟩

/-- Whether DXYN, with its operands as `s` holds them, covers the cell (u, v). -/
def State.spriteCovers (s : State) (x y n : Nibble) (u v : Nat) : Bool :=
  coversCell (fun r => s.readByte (s.I.toNat + r)) (originX (s.reg x)) (originY (s.reg y)) (visibleCols (s.reg x))
    (visibleRows (s.reg y) n) u v

/-- A sprite is clipped at the edges of the screen. -/
theorem State.spriteCovers_on_screen {s : State} {x y n : Nibble} {u v : Nat} (h : s.spriteCovers x y n u v = true) :
    u < 64 ∧ v < 32 := by
  obtain ⟨hu, hv⟩ := coversCell_bounds h
  obtain ⟨hx, hy⟩ := visible_on_screen (s.reg x) (s.reg y) n
  omega

/-! ### DXYN in range (R211) -/

/-- The state that a DXYN leaves when it passes its range check. -/
def State.drawn (s : State) (x y n : Nibble) : State :=
  { s with
    V := (s.setReg 0xF#4 (collisionFlag (s.drawSprite (s.reg x) (s.reg y) n).2)).V
    fb := (s.drawSprite (s.reg x) (s.reg y) n).1
    dirty := true
    pc := s.pc + 2#16
    status := .ok }

theorem exec_drw_eq {x y n : Nibble} {s : State} (h : s.dataInRange (visibleRows (s.reg y) n) = true) :
    exec (.drw x y n) s = .next (s.drawn x y n) := by
  rw [exec, execDrw, completeOrRaise, if_pos h]
  rfl

/-- A DXYN that raises nothing has passed its range check. -/
theorem drw_of_ok {x y n : Nibble} {s t : State} (h : exec (.drw x y n) s = .next t) (hok : t.status = .ok) :
    s.dataInRange (visibleRows (s.reg y) n) = true ∧ t = s.drawn x y n := by
  have hin : s.dataInRange (visibleRows (s.reg y) n) = true := by
    by_contra hout
    rw [exec, execDrw, completeOrRaise, if_neg hout] at h
    obtain rfl := Host.Outcome.next.inj h
    cases hok
  exact ⟨hin, Host.Outcome.next.inj (h.symm.trans (exec_drw_eq hin))⟩

/-- Every cell is XORed with the sprite. -/
theorem State.cellAt_drawn (s : State) (x y n : Nibble) (u v : Nat) :
    cellAt (s.drawn x y n).fb u v = (cellAt s.fb u v ^^ s.spriteCovers x y n u v) :=
  (s.drawSprite_spec (s.reg x) (s.reg y) n).1 u v

theorem State.reg_drawn (s : State) (x y n r : Nibble) : (s.drawn x y n).reg r =
    if r = 0xF#4 then collisionFlag (s.drawSprite (s.reg x) (s.reg y) n).2 else s.reg r :=
  s.reg_setReg 0xF#4 r _

theorem State.reg_drawn_of_ne (s : State) (x y n : Nibble) {r : Nibble} (hr : r ≠ 0xF#4) :
    (s.drawn x y n).reg r = s.reg r := by
  rw [State.reg_drawn, if_neg hr]

theorem flagByte_eq_one_iff (b : Bool) : flagByte b = 1 ↔ b = true := by cases b <;> decide

/-- The flag says whether a covered cell was on; the cells it speaks of lie on the screen. -/
theorem State.reg_drawn_VF_eq_one_iff (s : State) (x y n : Nibble) : (s.drawn x y n).reg 0xF#4 = 1 ↔
    ∃ u v, u < 64 ∧ v < 32 ∧ cellAt s.fb u v = true ∧ s.spriteCovers x y n u v = true := by
  rw [State.reg_drawn, if_pos rfl, collisionFlag, flagByte_eq_one_iff,
    (s.drawSprite_spec (s.reg x) (s.reg y) n).2]
  constructor
  · rintro ⟨u, v, hcover, hon⟩
    obtain ⟨hu, hv⟩ := State.spriteCovers_on_screen hcover
    exact ⟨u, v, hu, hv, hon, hcover⟩
  · rintro ⟨u, v, -, -, hon, hcover⟩
    exact ⟨u, v, hcover, hon⟩

/-- VF is written with a flag, collision or not. -/
theorem State.reg_drawn_VF_eq_zero (s : State) (x y n : Nibble)
    (h : ∀ u v, u < 64 → v < 32 → cellAt s.fb u v = true → s.spriteCovers x y n u v = false) :
    (s.drawn x y n).reg 0xF#4 = 0 := by
  have hflag : (s.drawn x y n).reg 0xF#4 = 0 ∨ (s.drawn x y n).reg 0xF#4 = 1 := by
    rw [State.reg_drawn, if_pos rfl]
    exact flagByte_eq_zero_or_one _
  refine hflag.resolve_right fun hone => ?_
  obtain ⟨u, v, hu, hv, hon, hcover⟩ := (s.reg_drawn_VF_eq_one_iff x y n).1 hone
  exact Bool.false_ne_true ((h u v hu hv hon).symm.trans hcover)

theorem State.regsSameBut_drawn (s : State) (x y n : Nibble) : RegsSameBut [0xF#4] s (s.drawn x y n) :=
  fun _ hr => s.reg_drawn_of_ne x y n (List.ne_of_not_mem_cons hr)

/-- Settles O37, by whether the bytes of the drawn rows lie in the RAM. -/
theorem drawSprite : Obligations.DrawSprite := by
  rintro x y n s _ _ rows _ rfl rfl hrows rfl
  have hvisible : visibleRows (s.reg y) n = rows := hrows.symm
  subst hvisible
  refine ⟨rfl, fun hin => ?_, fun hpos hout => ?_⟩
  · have hin : s.dataInRange (visibleRows (s.reg y) n) = true := by
      rw [State.dataInRange_iff, memSize]
      omega
    exact ⟨_, exec_drw_eq hin, fun u v _ _ => s.cellAt_drawn x y n u v, (s.reg_drawn_VF_eq_one_iff x y n).2,
      s.reg_drawn_VF_eq_zero x y n, rfl, ⟨rfl, rfl⟩, rfl, s.regsSameBut_drawn x y n, fun _ => rfl⟩
  · obtain ⟨k, hk⟩ := Nat.exists_eq_succ_of_ne_zero hpos.ne'
    have he := execDrw.eq_1 x y n s
    rw [hk] at he hout
    exact exec_of_outOfRange (i := .drw x y n) he hout

/-! ### DXYN twice -/

/-- With X and Y not F a draw writes none of the operands of the next one, so the same cells are covered again. -/
theorem State.spriteCovers_drawn (s : State) {x y n : Nibble} (hx : x ≠ 0xF#4) (hy : y ≠ 0xF#4) (u v : Nat) :
    (s.drawn x y n).spriteCovers x y n u v = s.spriteCovers x y n u v := by
  rw [State.spriteCovers, s.reg_drawn_of_ne x y n hx, s.reg_drawn_of_ne x y n hy]
  rfl

/-- Settles O38: the second draw flips back the cells that the first one flipped, and collides where that turned one
on. -/
theorem drawTwiceRestores : Obligations.DrawTwiceRestores := by
  intro x y n s t u hx hy hst hok htu
  obtain ⟨hin, rfl⟩ := drw_of_ok hst hok
  have hin' : (s.drawn x y n).dataInRange (visibleRows ((s.drawn x y n).reg y) n) = true := by
    rw [s.reg_drawn_of_ne x y n hy]
    exact hin
  obtain rfl := Host.Outcome.next.inj ((exec_drw_eq hin').symm.trans htu)
  refine ⟨fun a b _ _ => ?_, ?_⟩
  · rw [State.cellAt_drawn, State.cellAt_drawn, s.spriteCovers_drawn hx hy, Bool.xor_assoc, Bool.xor_self,
      Bool.xor_false]
  · have hturnedOn (a b : Nat) : cellAt (s.drawn x y n).fb a b = true ∧ s.spriteCovers x y n a b = true ↔
        cellAt s.fb a b = false ∧ cellAt (s.drawn x y n).fb a b = true := by
      rw [State.cellAt_drawn]
      cases cellAt s.fb a b <;> cases s.spriteCovers x y n a b <;> decide
    simp only [State.reg_drawn_VF_eq_one_iff, s.spriteCovers_drawn hx hy, hturnedOn]

end Sys2Proof.Machine
end

section
/-! PROOF. O39 to O42, O59: the keypad and the timers (45_keypad_timers).

The idea: each of the four answers of FX0A is one lemma, so a key wait is a chain of three of them, with the states that
the host's operations leave at the same word in between. For O59, whatever leaves a wait in progress has either kept
`pc`, the memory and the sub-state of the wait, or was FX0A itself, which keeps `pc` and the memory while it waits. -/

namespace Sys2Proof.Machine

/-! ### Skips on a key (R230, R231) -/

theorem keyOf_eq {v : Byte} {k : Nibble} (h : v.toNat = k.toNat) : keyOf v = k := by
  apply BitVec.eq_of_toNat_eq
  rw [keyOf, BitVec.toNat_setWidth, h, Nat.mod_eq_of_lt k.isLt]

section
variable {i : Instr} {s : State} {v : Byte} {b : Bool}
  (he : exec i s = completeOrRaise (isKeyIndex v) .keyRange (zextByte v) s (·.skipIf b))
include he

/-- A skip on a key index is a skip. -/
theorem exec_skip_of_key {k : Nibble} (hv : v.toNat = k.toNat) {c : Prop} [Decidable c] (hc : b = true ↔ c) :
    ∃ t, exec i s = .next t ∧ t.pc = (if c then s.pc + 4#16 else s.pc + 2#16) ∧ t.status = .ok ∧ OnlyFlow s t := by
  have hkey : isKeyIndex v = true := decide_eq_true (by have := k.isLt; omega)
  rw [completeOrRaise, if_pos hkey] at he
  exact exec_skip he hc

/-- A value that names no key is the datum of the fault (60_exceptions R290). -/
theorem exec_keyRange (hv : 15 < v.toNat) :
    ∃ t, exec i s = .next t ∧ Recorded .keyRange t.faultInfo s t ∧ t.faultInfo.toNat = v.toNat := by
  have hnone : ¬ isKeyIndex v = true := by simpa [isKeyIndex] using hv
  rw [completeOrRaise, if_neg hnone] at he
  exact ⟨_, he, rfl, toNat_zextByte v⟩

end

/-- Settles O39, by whether VX names a key. -/
theorem skipOnKey : Obligations.SkipOnKey := by
  refine fun x s => ⟨rfl, rfl, fun k hk => ⟨?_, ?_⟩, fun hx => ⟨exec_keyRange rfl hx, exec_keyRange rfl hx⟩⟩
  · exact exec_skip_of_key rfl hk (by rw [keyOf_eq hk])
  · have hc : (!s.keyPressed (keyOf (s.reg x))) = true ↔ ¬ s.keyPressed k = true := by
      rw [keyOf_eq hk, Bool.not_eq_true', Bool.not_eq_true]
    simpa only [ite_not] using exec_skip_of_key (i := .sknp x) rfl hk hc

/-! ### The timers (R233 to R235) -/

/-- Settles O42: FX07 is a register write, and the other two write one timer. -/
theorem timerMoves : Obligations.TimerMoves :=
  fun _ _ => ⟨rfl, rfl, rfl, exec_writesReg rfl,
    ⟨_, rfl, rfl, ⟨rfl, rfl⟩, rfl, fun _ _ => rfl, fun _ => rfl⟩,
    ⟨_, rfl, rfl, ⟨rfl, rfl⟩, rfl, rfl, fun _ _ => rfl, fun _ => rfl⟩⟩

/-! ### FX0A in each sub-state of the wait (R232) -/

/-- The least pressed key is the one that is found. -/
theorem State.leastKey_eq_some_of_least {s : State} {k : Nibble} (hk : s.keyPressed k = true)
    (hleast : ∀ q : Nibble, q.toNat < k.toNat → s.keyPressed q = false) : s.leastKey = some k := by
  cases hfound : s.leastKey with
  | none => exact absurd (hk.symm.trans (s.leastKey_eq_none.1 hfound k)) nofun
  | some j =>
    obtain ⟨hj, hbelow⟩ := State.leastKey_eq_some hfound
    rcases lt_trichotomy j.toNat k.toNat with hlt | heq | hgt
    · exact absurd (hj.symm.trans (hleast j hlt)) nofun
    · rw [BitVec.eq_of_toNat_eq heq]
    · exact absurd (hk.symm.trans (hbelow k hgt)) nofun

section
variable {s : State}

theorem exec_ldVxK_of_not_release (x : Nibble) (hkw : s.kwState ≠ .release) :
    exec (.ldVxK x) s = complete s.awaitPress := by
  simpa [hkw, exec] using execLdVxK_cases x s

theorem exec_ldVxK_of_pressed (x : Nibble) {k : Nibble} (hkw : s.kwState ≠ .release) (hk : s.keyPressed k = true)
    (hleast : ∀ q : Nibble, q.toNat < k.toNat → s.keyPressed q = false) :
    exec (.ldVxK x) s = complete (s.latchKey k) := by
  rw [exec_ldVxK_of_not_release x hkw, State.awaitPress, State.leastKey_eq_some_of_least hk hleast]

theorem exec_ldVxK_of_no_key (x : Nibble) (hkw : s.kwState ≠ .release) (hnone : ∀ q : Nibble, s.keyPressed q = false) :
    exec (.ldVxK x) s = complete (s.setKwState .press) := by
  rw [exec_ldVxK_of_not_release x hkw, State.awaitPress, s.leastKey_eq_none.2 hnone]

theorem exec_ldVxK_of_held (x : Nibble) (hkw : s.kwState = .release) (hk : s.keyPressed s.kwIdx = true) :
    exec (.ldVxK x) s = complete s := by
  simpa [hkw, hk, exec] using execLdVxK_cases x s

theorem exec_ldVxK_of_released (x : Nibble) (hkw : s.kwState = .release) (hk : s.keyPressed s.kwIdx = false) :
    exec (.ldVxK x) s = complete ((s.advance.setReg x (zextNibble s.kwIdx)).setKwState .idle) := by
  simpa [hkw, hk, exec] using execLdVxK_cases x s

end

theorem toNat_zextNibble (k : Nibble) : (zextNibble k).toNat = k.toNat :=
  BitVec.toNat_setWidth_of_le (by decide)

/-- Settles O40. -/
theorem keyWait : Obligations.KeyWait := by
  refine fun x s => ⟨rfl, fun hkw => ⟨fun _ => exec_ldVxK_of_pressed x hkw, exec_ldVxK_of_no_key x hkw⟩,
    exec_ldVxK_of_held x, fun hkw hk => ?_⟩
  have hreg : ((s.setReg x (zextNibble s.kwIdx)).reg x).toNat = s.kwIdx.toNat := by
    rw [State.reg_setReg_self, toNat_zextNibble]
  exact ⟨_, exec_ldVxK_of_released x hkw hk, hreg, rfl, ⟨rfl, rfl⟩, rfl, regsSameBut_setReg s x _, fun _ => rfl⟩

/-! ### A wait from its start to its end (R232, 70_reset_and_hazards R331) -/

/-- The next step runs the FX0A at `pc`. -/
def RunsLdVxK (x : Nibble) (s : State) : Prop :=
  CanStep s ∧ s.pc.toNat ≤ 0xFFE ∧ decode s.fetchWord = .instr (.ldVxK x)

section
variable {x k : Nibble} {s : State}

theorem RunsLdVxK.step_eq (h : RunsLdVxK x s) : step s = exec (.ldVxK x) (s.latchIr s.fetchWord) := by
  obtain ⟨⟨hrun, hfault⟩, hpc, hd⟩ := h
  exact step_eq_exec hrun hfault (s.fetchable_iff.2 hpc) hd

theorem State.unlessQuit_of_running (h : s.execState = .running) (op : State → State) : s.unlessQuit op = op s := by
  rw [State.unlessQuit, h]

/-- What a step without a pressed key and then `key_down(k)` leave. -/
def State.afterPress (s : State) (k : Nibble) : State :=
  (((s.latchIr s.fetchWord).setKwState .press).setStatus .ok).setKey k true

theorem State.keyPressed_afterPress (s : State) (k q : Nibble) :
    (s.afterPress k).keyPressed q = if q = k then true else s.keyPressed q := by
  simp [State.afterPress, State.keyPressed_setKey]

theorem RunsLdVxK.afterPress (h : RunsLdVxK x s) (k : Nibble) : RunsLdVxK x (s.afterPress k) := by
  simpa [RunsLdVxK, CanStep, State.fetchWord, State.afterPress] using h

theorem RunsLdVxK.runSchedule_press (h : RunsLdVxK x s) (hkw : s.kwState ≠ .release)
    (hnone : ∀ q : Nibble, s.keyPressed q = false) (ops : List HostOp) :
    runSchedule (.step :: .keyDown k :: ops) s = runSchedule ops (s.afterPress k) := by
  have hstep : step s = complete ((s.latchIr s.fetchWord).setKwState .press) :=
    h.step_eq.trans (exec_ldVxK_of_no_key x (s := s.latchIr s.fetchWord) hkw hnone)
  obtain ⟨⟨hrun, -⟩, -⟩ := h
  rw [runSchedule_step_cons hstep]
  simp [runSchedule, invoke, keyDown, State.unlessQuit_of_running, hrun, State.afterPress]

/-- What a step that latches `k`, a tick and `key_up(k)` leave. -/
def State.afterRelease (s : State) (k : Nibble) : State :=
  (((((s.latchIr s.fetchWord).latchKey k).setStatus .ok).setDT (countDown s.DT)).setST (countDown s.ST)).setKey k false

theorem State.keyPressed_afterRelease (s : State) (k q : Nibble) :
    (s.afterRelease k).keyPressed q = if q = k then false else s.keyPressed q := by
  simp [State.afterRelease, State.keyPressed_setKey]

theorem RunsLdVxK.afterRelease (h : RunsLdVxK x s) (k : Nibble) : RunsLdVxK x (s.afterRelease k) := by
  simpa [RunsLdVxK, CanStep, State.fetchWord, State.afterRelease] using h

theorem RunsLdVxK.runSchedule_release (h : RunsLdVxK x s) (hkw : s.kwState ≠ .release) (hk : s.keyPressed k = true)
    (hleast : ∀ q : Nibble, q.toNat < k.toNat → s.keyPressed q = false) (ops : List HostOp) :
    runSchedule (.step :: .tickTimers :: .keyUp k :: ops) s = runSchedule ops (s.afterRelease k) := by
  have hstep : step s = complete ((s.latchIr s.fetchWord).latchKey k) :=
    h.step_eq.trans (exec_ldVxK_of_pressed x (s := s.latchIr s.fetchWord) hkw hk hleast)
  obtain ⟨⟨hrun, -⟩, -⟩ := h
  rw [runSchedule_step_cons hstep]
  simp [runSchedule, invoke, tickTimers, keyUp, State.unlessQuit_of_running, hrun, State.afterRelease]

/-- What the step that finds the latched key released leaves. -/
def State.afterKeyWait (s : State) (x : Nibble) : State :=
  (((s.latchIr s.fetchWord).advance.setReg x (zextNibble s.kwIdx)).setKwState .idle).setStatus .ok

theorem RunsLdVxK.step_of_released (h : RunsLdVxK x s) (hkw : s.kwState = .release)
    (hk : s.keyPressed s.kwIdx = false) : step s = .next (s.afterKeyWait x) :=
  h.step_eq.trans (exec_ldVxK_of_released x (s := s.latchIr s.fetchWord) hkw hk)

end

/-- Settles O41: the three steps run the same FX0A, the first with no key pressed, the second with `k` alone pressed
and the third with `k`, now latched, released. -/
theorem keyWaitCompletes : Obligations.KeyWaitCompletes := by
  intro x k s hrun hfault hpc hd hidle hnone
  have hruns : RunsLdVxK x s := ⟨⟨hrun, hfault⟩, hpc, hd⟩
  have hpressed (q : Nibble) : (s.afterPress k).keyPressed q = decide (q = k) := by
    simp [State.keyPressed_afterPress, hnone]
  have hreleased (q : Nibble) : ((s.afterPress k).afterRelease k).keyPressed q = false := by
    simp [State.keyPressed_afterRelease, hpressed]
  have hschedule : runSchedule [.step, .keyDown k, .step, .tickTimers, .keyUp k, .step] s =
      .next (((s.afterPress k).afterRelease k).afterKeyWait x) := by
    have hleast (q : Nibble) (hq : q.toNat < k.toNat) : (s.afterPress k).keyPressed q = false := by
      rw [hpressed]
      exact decide_eq_false fun e => by simp [e] at hq
    rw [hruns.runSchedule_press (by simp [hidle]) hnone,
      (hruns.afterPress k).runSchedule_release nofun (by simp [hpressed]) hleast,
      runSchedule_step_cons (((hruns.afterPress k).afterRelease k).step_of_released rfl (hreleased k)), runSchedule]
  refine ⟨_, hschedule, ?_, ?_, rfl, rfl, hreleased, fun r hr => ?_, fun a => ?_⟩
  · exact (congrArg BitVec.toNat (State.reg_setReg_self _ x _)).trans (toNat_zextNibble k)
  · simp [State.afterKeyWait, State.afterRelease, State.afterPress]
  · simp [State.afterKeyWait, State.afterRelease, State.afterPress, State.reg_setReg, List.ne_of_not_mem_cons hr]
  · simp [State.afterKeyWait, State.afterRelease, State.afterPress]

/-! ### What a wait in progress holds (R232) -/

/-- `pc`, the sub-state of the wait and every byte of memory are as before. -/
def KeepsWait (s t : State) : Prop := t.pc = s.pc ∧ t.kwState = s.kwState ∧ MemSame s t

/-- The word at `pc` is an FX0A, and `pc` and every byte of memory are as before. -/
def StaysAtLdVxK (s t : State) : Prop := (∃ x : Nibble, s.fetchWord = encode (.ldVxK x)) ∧ t.pc = s.pc ∧ MemSame s t

/-- A wait that goes on as it was stays at its FX0A. -/
theorem KeepsWait.stays {s t : State} (h : KeepsWait s t) (hs : WaitInv s) (ht : t.kwState ≠ .idle) :
    StaysAtLdVxK s t := by
  obtain ⟨hpc, hkw, hmem⟩ := h
  obtain ⟨-, hword⟩ := hs (hkw ▸ ht)
  exact ⟨hword, hpc, hmem⟩

/-- By the instruction: of the updates an instruction is made of, those of FX0A alone write the sub-state. -/
theorem exec_keeps_kwState {i : Instr} {s t : State} (h : exec i s = .next t) (hi : ∀ x, i ≠ .ldVxK x) :
    t.kwState = s.kwState := by
  cases i with
  | ldVxK x => exact absurd rfl (hi x)
  | ret | call _ | skp _ | sknp _ | ldB _ | ldMemVx _ | ldVxMem _ | drw _ _ _ =>
    simp only [exec, execRet, execCall, execSkp, execSknp, execLdB, execLdMemVx, execLdVxMem, execDrw] at h
    exact completeOrRaise_next (P := fun t => t.kwState = s.kwState) h (by simp) rfl
  | seImm _ _ | sneImm _ _ | seReg _ _ | sneReg _ _ =>
    exact complete_next (P := fun t => t.kwState = s.kwState) h (State.skipIf_kwState _ _)
  | _ => exact complete_next (P := fun t => t.kwState = s.kwState) h rfl

/-- An execution of FX0A that does not end the wait stays where it is. -/
theorem execLdVxK_stays {x : Nibble} {s t : State} (hw : s.fetchWord = encode (.ldVxK x)) (h : execLdVxK x s = .next t)
    (ht : t.kwState ≠ .idle) : StaysAtLdVxK s t :=
  execLdVxK_next (P := fun t => t.kwState ≠ .idle → StaysAtLdVxK s t) h
    (fun _ => ⟨⟨x, hw⟩, by simp, fun _ => by simp⟩) (fun _ => ⟨⟨x, hw⟩, rfl, fun _ => rfl⟩) (fun h => absurd rfl h) ht

/-- No other instruction leaves a wait: it keeps the sub-state, and it is not the one that a wait is at. -/
theorem exec_stays {i : Instr} {s t : State} (hs : WaitInv s) (hd : decode s.fetchWord = .instr i)
    (h : exec i s = .next t) (ht : t.kwState ≠ .idle) : StaysAtLdVxK s t := by
  by_cases hi : ∃ x, i = .ldVxK x
  · obtain ⟨x, rfl⟩ := hi
    exact execLdVxK_stays (encode_of_decode_ldVxK hd) h ht
  · have hi (x : Nibble) : i ≠ .ldVxK x := fun e => hi ⟨x, e⟩
    have hidle : s.kwState = .idle := hs.kwState_eq_idle fun x e => hi x (Decoded.instr.inj (hd.symm.trans e))
    exact absurd ((exec_keeps_kwState h hi).trans hidle) ht

theorem State.unimplementedOp_kwState (s : State) (op : Word) : (s.unimplementedOp op).kwState = s.kwState := by
  rcases s.unimplementedOp_cases op with ⟨-, he⟩ | ⟨-, he⟩ <;> rw [he] <;> rfl

/-- By the cases of the step cycle: the gates and the fetch fault keep the wait. -/
theorem step_stays {s t : State} (hs : WaitInv s) (h : step s = .next t) (ht : t.kwState ≠ .idle) :
    StaysAtLdVxK s t := by
  rw [step] at h
  rcases cycle_cases exec s with ⟨-, he⟩ | ⟨-, he⟩ | ⟨-, -, he⟩ | ⟨-, -, -, he⟩ |
    ⟨-, -, -, i, hd, he⟩ | ⟨-, -, -, hd, he⟩ <;> rw [he] at h
  case inr.inr.inr.inr.inl => exact exec_stays (s := s.latchIr s.fetchWord) hs hd h ht
  all_goals obtain rfl := Host.Outcome.next.inj h
  case inr.inr.inr.inr.inr =>
    rw [State.unimplementedOp_kwState] at ht
    exact absurd (hs.kwState_eq_idle (by simp [hd])) ht
  all_goals exact KeepsWait.stays ⟨rfl, rfl, fun _ => rfl⟩ hs ht

theorem KeepsWait.refl (s : State) : KeepsWait s s := ⟨rfl, rfl, fun _ => rfl⟩

theorem State.unlessQuit_keepsWait {s : State} {op : State → State} (h : KeepsWait s (op s)) :
    KeepsWait s (s.unlessQuit op) := by
  rw [State.unlessQuit_eq]
  split
  · exact .refl s
  · exact h

theorem requestPause_keepsWait (s : State) : KeepsWait s (requestPause s) := by
  unfold requestPause
  split <;> exact ⟨rfl, rfl, fun _ => rfl⟩

theorem requestResume_keepsWait (s : State) : KeepsWait s (requestResume s) := by
  unfold requestResume
  split <;> exact ⟨rfl, rfl, fun _ => rfl⟩

/-- A load that is refused changes nothing, one that succeeds ends the wait. -/
theorem loadProgram_keepsWait {bytes : List Byte} {s : State} (h : (loadProgram bytes s).2.kwState ≠ .idle) :
    KeepsWait s (loadProgram bytes s).2 := by
  rcases loadProgram_cases bytes s with ⟨-, he⟩ | ⟨-, -, he⟩ | ⟨-, -, he⟩ <;> rw [he] at h ⊢
  · exact .refl s
  · exact .refl s
  · exact absurd rfl h

/-- By the operation: a reset ends the wait, and every other one but the step keeps it. -/
theorem invoke_keepsWait {o : HostOp} {s t : State} (ho : o ≠ .step) (h : invoke o s = .next t)
    (ht : t.kwState ≠ .idle) : KeepsWait s t := by
  cases o with
  | step => exact absurd rfl ho
  | reset c =>
    obtain rfl := Host.Outcome.next.inj h
    exact absurd rfl ht
  | loadProgram bytes =>
    obtain rfl := Host.Outcome.next.inj h
    exact loadProgram_keepsWait ht
  | requestPause => exact Host.Outcome.next.inj h ▸ requestPause_keepsWait s
  | requestResume => exact Host.Outcome.next.inj h ▸ requestResume_keepsWait s
  | requestQuit => exact Host.Outcome.next.inj h ▸ ⟨rfl, rfl, fun _ => rfl⟩
  | tickTimers | keyDown _ | keyUp _ | frameAck =>
    exact Host.Outcome.next.inj h ▸ State.unlessQuit_keepsWait ⟨rfl, rfl, fun _ => rfl⟩

theorem invoke_stays {o : HostOp} {s t : State} (hs : WaitInv s) (h : invoke o s = .next t) (ht : t.kwState ≠ .idle) :
    StaysAtLdVxK s t := by
  by_cases ho : o = .step
  · subst ho
    exact step_stays hs h ht
  · exact (invoke_keepsWait ho h ht).stays hs ht

/-- Settles O59: the word at `pc` is read at the same address of the same memory. -/
theorem waitHoldsInstruction : Obligations.WaitHoldsInstruction := by
  intro o s t hs h ht
  obtain ⟨⟨x, hx⟩, hpc, hmem⟩ := invoke_stays hs h ht
  have hword : t.fetchWord = s.fetchWord := by rw [State.fetchWord, State.fetchWord, hpc, hmem, hmem]
  exact ⟨hpc, hmem, hword, x, hword.trans hx⟩

end Sys2Proof.Machine
end

section
/-! PROOF. O45 to O48, O57, O58: the operations of the host (46_host_operations).

The idea of O57: the invariants read nothing that a tick, a key event, a request or `frame_ack` writes, the step is O56,
and a reset or a load starts again from the machine after power-on. O58 is the induction over the schedule. -/

namespace Sys2Proof.Machine

/-! ### What QUIT suppresses (R257) -/

theorem State.unlessQuit_of_quit {s : State} (h : s.execState = .quit) (op : State → State) : s.unlessQuit op = s := by
  rw [State.unlessQuit_eq, if_pos h]

theorem State.unlessQuit_of_ne_quit {s : State} (h : s.execState ≠ .quit) (op : State → State) :
    s.unlessQuit op = op s := by
  rw [State.unlessQuit_eq, if_neg h]

/-! ### Ticks and key events (R252 to R254) -/

theorem toNat_countDown (t : Byte) : (countDown t).toNat = t.toNat - 1 := by
  unfold countDown
  split <;> bv_omega

/-- Settles O45, by whether the machine has quit. -/
theorem tickCountsDown : Obligations.TickCountsDown := by
  refine fun s => ⟨fun hq => State.unlessQuit_of_quit hq _, fun hq => ?_⟩
  rw [tickTimers, State.unlessQuit_of_ne_quit hq]
  exact ⟨toNat_countDown s.DT, toNat_countDown s.ST, rfl⟩

/-- Settles O46, by whether the machine has quit. -/
theorem keyEvents : Obligations.KeyEvents := by
  refine fun k s => ⟨fun hq => ⟨State.unlessQuit_of_quit hq _, State.unlessQuit_of_quit hq _⟩, fun hq => ?_⟩
  rw [keyDown, keyUp, State.unlessQuit_of_ne_quit hq, State.unlessQuit_of_ne_quit hq]
  exact ⟨fun q => s.keyPressed_setKey k q true, fun q => s.keyPressed_setKey k q false, rfl, rfl⟩

/-! ### Requests and the frame's acknowledgement (R255, R256, R258) -/

theorem requestPause_eq (s : State) :
    requestPause s = if s.execState = .running then s.setExecState .paused else s := by
  unfold requestPause
  cases s.execState <;> rfl

theorem requestResume_eq (s : State) :
    requestResume s = if s.execState = .paused then s.setExecState .running else s := by
  unfold requestResume
  cases s.execState <;> rfl

theorem frameAck_eq (s : State) : frameAck s = if s.execState ≠ .quit then s.clearDirty else s := by
  rw [frameAck, State.unlessQuit_eq, ite_not]

/-- Settles O47, operation by operation. -/
theorem hostRequests : Obligations.HostRequests :=
  fun s => ⟨requestPause_eq s, requestResume_eq s, frameAck_eq s⟩

/-! ### QUIT (R257) -/

/-- A load is refused in QUIT, whatever the image (70_reset_and_hazards R322, R323). -/
theorem loadProgram_of_quit {s : State} (h : s.execState = .quit) (bytes : List Byte) : (loadProgram bytes s).2 = s := by
  rcases loadProgram_cases bytes s with ⟨-, he⟩ | ⟨-, -, he⟩ | ⟨-, hne, -⟩
  · rw [he]
  · rw [he]
  · exact absurd h hne

/-- Each operation but reset: the step by its first gate, the load by its refusal, the others by what QUIT suppresses. -/
theorem invoke_of_quit {o : HostOp} {s : State} (h : s.execState = .quit) (ho : ∀ c, o ≠ .reset c) :
    invoke o s = .next s := by
  cases o with
  | reset c => exact absurd rfl (ho c)
  | loadProgram bytes => rw [invoke, loadProgram_of_quit h]
  | step => exact step_of_quit h
  | requestPause => rw [invoke, requestPause, h]
  | requestResume => rw [invoke, requestResume, h]
  | requestQuit => rw [invoke, requestQuit, State.setExecState, ← h]
  | tickTimers | keyDown _ | keyUp _ | frameAck => exact congrArg _ (State.unlessQuit_of_quit h _)

/-- Settles O48. -/
theorem quitIsTerminal : Obligations.QuitIsTerminal :=
  ⟨fun _ => rfl, fun _ _ _ hq ho h => (Host.Outcome.next.inj ((invoke_of_quit hq ho).symm.trans h)).symm⟩

/-! ### The invariants under the host's operations (R251) -/

@[simp] theorem machineInv_setExecState {s : State} {v : ExecState} :
    MachineInv (s.setExecState v) ↔ MachineInv s := .rfl
@[simp] theorem machineInv_setKey {s : State} {k : Nibble} {b : Bool} : MachineInv (s.setKey k b) ↔ MachineInv s := .rfl
@[simp] theorem machineInv_setDT {s : State} {v : Byte} : MachineInv (s.setDT v) ↔ MachineInv s := .rfl
@[simp] theorem machineInv_setST {s : State} {v : Byte} : MachineInv (s.setST v) ↔ MachineInv s := .rfl
@[simp] theorem machineInv_clearDirty {s : State} : MachineInv s.clearDirty ↔ MachineInv s := .rfl

theorem MachineInv.unlessQuit {s : State} {op : State → State} (h : MachineInv s) (hop : MachineInv (op s)) :
    MachineInv (s.unlessQuit op) := by
  rw [State.unlessQuit_eq]
  exact iteInduction (fun _ => h) (fun _ => hop)

theorem MachineInv.requestPause {s : State} (h : MachineInv s) : MachineInv (requestPause s) := by
  rw [requestPause_eq]
  exact iteInduction (fun _ => machineInv_setExecState.2 h) (fun _ => h)

theorem MachineInv.requestResume {s : State} (h : MachineInv s) : MachineInv (requestResume s) := by
  rw [requestResume_eq]
  exact iteInduction (fun _ => machineInv_setExecState.2 h) (fun _ => h)

/-- After power-on reset the machine is in no key wait either. -/
theorem idleInv_powerOnReset {c : Config} (hc : c.wellFormed = true) (s : State) : IdleInv (powerOnReset c s) :=
  ⟨machineInv_powerOn hc, rfl⟩

/-- A load leaves the state as it is, or stores on a reset machine an image that ends inside the RAM. -/
theorem MachineInv.loadProgram {s : State} (h : MachineInv s) (bytes : List Byte) :
    MachineInv (loadProgram bytes s).2 := by
  rcases loadProgram_cases bytes s with ⟨-, he⟩ | ⟨-, -, he⟩ | ⟨hlen, -, he⟩ <;> rw [he]
  · exact h
  · exact h
  · obtain ⟨-, hcfg, -, -, -⟩ := h
    exact ((idleInv_powerOnReset hcfg s).storeBytes (by rw [memSize]; omega)).1

/-- Settles O57, by the operation. -/
theorem hostOpKeepsMachineInv : Obligations.HostOpKeepsMachineInv := by
  intro o s t hs ho h
  cases o with
  | step => exact stepKeepsMachineInv s t hs h
  | reset c => exact Host.Outcome.next.inj h ▸ (idleInv_powerOnReset ho s).1
  | loadProgram bytes => exact Host.Outcome.next.inj h ▸ hs.loadProgram bytes
  | tickTimers => exact Host.Outcome.next.inj h ▸ hs.unlessQuit (machineInv_setST.2 (machineInv_setDT.2 hs))
  | keyDown _ | keyUp _ => exact Host.Outcome.next.inj h ▸ hs.unlessQuit (machineInv_setKey.2 hs)
  | requestPause => exact Host.Outcome.next.inj h ▸ hs.requestPause
  | requestResume => exact Host.Outcome.next.inj h ▸ hs.requestResume
  | requestQuit => exact Host.Outcome.next.inj h ▸ machineInv_setExecState.2 hs
  | frameAck => exact Host.Outcome.next.inj h ▸ hs.unlessQuit (machineInv_clearDirty.2 hs)

/-! ### Schedules (R251) -/

/-- A schedule that ends in a state has taken its first operation to a next state and gone on from there. -/
theorem runSchedule_cons {o : HostOp} {ops : List HostOp} {s t : State} (h : runSchedule (o :: ops) s = .next t) :
    ∃ u, invoke o s = .next u ∧ runSchedule ops u = .next t := by
  rw [runSchedule] at h
  cases hu : invoke o s <;> rw [hu] at h
  case next u => exact ⟨u, rfl, h⟩
  all_goals cases h

/-- What every legal operation keeps, every schedule of legal operations keeps. -/
theorem runSchedule_keeps {P : State → Prop}
    (hP : ∀ (o : HostOp) (s t : State), P s → o.legal = true → invoke o s = .next t → P t) {ops : List HostOp}
    {s t : State} (hs : P s) (hops : ops.all HostOp.legal = true) (h : runSchedule ops s = .next t) : P t := by
  induction ops generalizing s with
  | nil => exact Host.Outcome.next.inj h ▸ hs
  | cons o ops ih =>
    rw [List.all_cons, Bool.and_eq_true] at hops
    obtain ⟨ho, hrest⟩ := hops
    obtain ⟨u, hu, hrun⟩ := runSchedule_cons h
    exact ih (hP o s u hs ho hu) hrest hrun

/-- Settles O58: the machine after power-on meets the invariants, and every operation of the schedule keeps them. -/
theorem reachableMeetsMachineInv : Obligations.ReachableMeetsMachineInv := by
  rintro s ⟨c, ops, hc, hops, hrun⟩
  exact runSchedule_keeps hostOpKeepsMachineInv (machineInv_powerOn hc) hops hrun

end Sys2Proof.Machine
end

section
/-! PROOF. O8, O10 to O13: the faults that a step records (60_exceptions).

The idea: a step from a state that can step records a fault in three ways only, and each leaves `State.raise` on the
state the step found, with the fetched word latched when there is one. So faults are precise, and the table has one row
for each way in which an instruction's own check can fail. -/

namespace Sys2Proof.Machine

/-! ### Every instruction and every step answers (R284, R293) -/

theorem exec_answers (i : Instr) (s : State) : ∃ t, exec i s = .next t := by
  rcases exec_cases i s with ⟨u, he, -⟩ | ⟨code, info, he, -⟩
  · exact ⟨_, he⟩
  · exact ⟨_, he⟩

/-- By the cases of the cycle: only an instruction could stop it, and none does. -/
theorem step_answers (s : State) : ∃ t, step s = .next t := by
  rcases cycle_cases exec s with ⟨-, he⟩ | ⟨-, he⟩ | ⟨-, -, he⟩ | ⟨-, -, -, he⟩ | ⟨-, -, -, i, -, he⟩ |
    ⟨-, -, -, -, he⟩
  case inr.inr.inr.inr.inl => exact (exec_answers i _).imp fun _ h => he.trans h
  all_goals exact ⟨_, he⟩

/-- Settles O13. -/
theorem everyStepAnswers : Obligations.EveryStepAnswers := ⟨step_answers, exec_answers⟩

/-! ### A fetch outside the RAM (R286) -/

theorem State.fetchable_eq_false_iff (s : State) : s.fetchable = false ↔ 0xFFE < s.pc.toNat := by
  rw [← Bool.not_eq_true, State.fetchable_iff, Nat.not_le]

theorem step_of_not_fetchable {s : State} (h : CanStep s) (hfetch : s.fetchable = false) :
    step s = .next (s.raise .fetchRange s.pc) := by
  obtain ⟨hrun, hfault⟩ := h
  simpa [step, hrun, hfault, hfetch] using cycle_cases exec s

/-- Settles O8. -/
theorem fetchRangeRecorded : Obligations.FetchRangeRecorded :=
  fun s hrun hfault hpc => step_of_not_fetchable ⟨hrun, hfault⟩ (s.fetchable_eq_false_iff.2 hpc)

/-! ### How a fault comes to be recorded -/

/-- An instruction that records a fault has raised its own (R292). -/
theorem exec_records {i : Instr} {s t : State} (hs : s.faultValid = false) (h : exec i s = .next t)
    (ht : t.faultValid = true) : ∃ code info, t = s.raise code info ∧ RaisesOn s code info i := by
  rcases exec_cases i s with ⟨u, he, -, -, -, -, hu, -⟩ | ⟨code, info, he, hraises⟩
  · obtain rfl := Host.Outcome.next.inj (he.symm.trans h)
    exact absurd (ht.symm.trans (hu.trans hs)) nofun
  · exact ⟨code, info, Host.Outcome.next.inj (h.symm.trans he), hraises⟩

/-- An unimplemented opcode records a fault under the policy `halt` alone (30_encoding R101). -/
theorem unimplementedOp_records {s : State} {op : Word} (hs : s.faultValid = false)
    (ht : (s.unimplementedOp op).faultValid = true) :
    s.cfg.unimplPolicy = .halt ∧ s.unimplementedOp op = s.raise .unimplementedOpcode op := by
  refine (s.unimplementedOp_cases op).resolve_left fun ⟨_, he⟩ => ?_
  rw [he] at ht
  exact absurd (ht.symm.trans hs) nofun

/-- The three ways in which a step records a fault: the fetch, an unimplemented opcode, the check of an instruction. -/
theorem step_records {s t : State} (hs : CanStep s) (h : step s = .next t) (ht : t.faultValid = true) :
    (s.fetchable = false ∧ t = s.raise .fetchRange s.pc) ∨
    (s.fetchable = true ∧ decode s.fetchWord = .unimplemented s.fetchWord ∧ s.cfg.unimplPolicy = .halt ∧
      t = (s.latchIr s.fetchWord).raise .unimplementedOpcode s.fetchWord) ∨
    (s.fetchable = true ∧ ∃ i code info, decode s.fetchWord = .instr i ∧
      t = (s.latchIr s.fetchWord).raise code info ∧ RaisesOn (s.latchIr s.fetchWord) code info i) := by
  obtain ⟨hrun, hfault⟩ := id hs
  cases hfetch : s.fetchable with
  | false => exact .inl ⟨rfl, Host.Outcome.next.inj (h.symm.trans (step_of_not_fetchable hs hfetch))⟩
  | true =>
    cases hd : decode s.fetchWord with
    | instr i =>
      rw [step_eq_exec hrun hfault hfetch hd] at h
      obtain ⟨code, info, hraised⟩ := exec_records (s := s.latchIr s.fetchWord) hfault h ht
      exact .inr (.inr ⟨rfl, i, code, info, rfl, hraised⟩)
    | unimplemented op =>
      obtain rfl := decode_unimplemented hd
      obtain rfl := Host.Outcome.next.inj ((step_eq_unimplementedOp hrun hfault hfetch hd).symm.trans h)
      exact .inr (.inl ⟨rfl, rfl, unimplementedOp_records (s := s.latchIr s.fetchWord) hfault ht⟩)

/-- Settles O10, by the way in which the fault comes to be recorded. -/
theorem faultsArePrecise : Obligations.FaultsArePrecise := by
  intro s t hrun hfault h ht
  rcases step_records ⟨hrun, hfault⟩ h ht with ⟨hfetch, rfl⟩ | ⟨hfetch, -, -, rfl⟩ | ⟨hfetch, i, code, info, -, rfl, -⟩
  · have hpc := s.fetchable_eq_false_iff.1 hfetch
    exact ⟨rfl, fun hin => absurd hpc hin.not_gt, fun _ => rfl⟩
  all_goals
    have hpc := s.fetchable_iff.1 hfetch
    exact ⟨rfl, fun _ => rfl, fun hout => absurd hpc hout.not_ge⟩

/-- Settles O12, by the instruction. -/
theorem oneFaultPerInstruction : Obligations.OneFaultPerInstruction := by
  intro i s t hs h ht
  obtain ⟨code, info, rfl, hraises⟩ := exec_records hs h ht
  cases i with
  | call _ | ret | skp _ | sknp _ | drw _ _ _ | ldB _ | ldMemVx _ | ldVxMem _ =>
    obtain ⟨-, hcode, -⟩ := hraises
    exact hcode
  | _ => exact hraises

/-! ### The table (R285) -/

theorem State.dataInRange_eq_false_iff (s : State) (n : Nat) :
    s.dataInRange n = false ↔ 0xFFF < s.I.toNat + n - 1 ∧ 0 < n := by
  rw [← Bool.not_eq_true, State.dataInRange_iff, memSize]
  omega

theorem isKeyIndex_eq_false_iff (v : Byte) : isKeyIndex v = false ↔ 15 < v.toNat := by
  rw [isKeyIndex, decide_eq_false_iff_not, Nat.not_le]

/-- Settles O11: a row for each way in which a fault comes to be recorded, and one for each instruction that raises. -/
theorem faultTable : Obligations.FaultTable := by
  refine ⟨rfl, fun s t hrun hfault h ht => ?_, fun s t hs hcode hinfo h ht => ?_⟩
  · rcases step_records ⟨hrun, hfault⟩ h ht with ⟨hfetch, rfl⟩ | ⟨hfetch, hd, hhalt, rfl⟩ |
      ⟨hfetch, i, code, info, hd, rfl, hraises⟩
    · exact .inl ⟨rfl, s.fetchable_eq_false_iff.1 hfetch, rfl⟩
    · exact .inr ⟨s.fetchable_iff.1 hfetch, .inl ⟨rfl, hhalt, rfl, hd⟩⟩
    · refine .inr ⟨s.fetchable_iff.1 hfetch, .inr ⟨i, hd, ?_⟩⟩
      cases i with
      | call nnn =>
        obtain ⟨hfull, rfl, rfl⟩ := hraises
        exact .inl ⟨⟨nnn, rfl⟩, rfl, hfull, rfl⟩
      | ret =>
        obtain ⟨hempty, rfl, rfl⟩ := hraises
        exact .inr (.inl ⟨rfl, rfl, hempty, (encode_of_decode hd).symm⟩)
      | drw x y n =>
        obtain ⟨hout, rfl, rfl⟩ := hraises
        obtain ⟨hbad, hrows⟩ := (State.dataInRange_eq_false_iff _ _).1 hout
        exact .inr (.inr (.inl ⟨⟨x, y, n, rfl, hbad, hrows.trans_le (min_le_left _ _)⟩, rfl, s.toNat_lowestBad⟩))
      | ldB x =>
        obtain ⟨hout, rfl, rfl⟩ := hraises
        obtain ⟨hbad, -⟩ := (State.dataInRange_eq_false_iff _ _).1 hout
        exact .inr (.inr (.inr (.inl ⟨⟨x, rfl⟩, hbad, rfl, s.toNat_lowestBad⟩)))
      | ldMemVx x | ldVxMem x =>
        obtain ⟨hout, rfl, rfl⟩ := hraises
        obtain ⟨hbad, -⟩ := (State.dataInRange_eq_false_iff _ _).1 hout
        exact .inr (.inr (.inr (.inr (.inl ⟨⟨x, by simp, hbad⟩, rfl, s.toNat_lowestBad⟩))))
      | skp x | sknp x =>
        obtain ⟨hout, rfl, rfl⟩ := hraises
        have hbad := (isKeyIndex_eq_false_iff _).1 hout
        exact .inr (.inr (.inr (.inr (.inr ⟨x, by simp, hbad, rfl, toNat_zextByte _⟩))))
      | _ => exact hraises.elim
  · obtain ⟨-, -, -, hrecord, -⟩ := stepNeverChanges s t h
    obtain ⟨-, hsameCode, -, hsameInfo⟩ := hrecord (.inr ht)
    exact ⟨hsameCode.trans hcode, hsameInfo.trans hinfo⟩

end Sys2Proof.Machine
end

section
/-! PROOF. O44, O49 to O51: power-on reset, `load_program`, and a jump to itself (70_reset_and_hazards).

The idea: after a reset no cell of memory is listed, so every byte is the background's, and a load that succeeds is a
reset with one run of bytes stored behind it, which under a legal configuration lies above the font. -/

namespace Sys2Proof.Machine

/-! ### The memory that power-on leaves (20_memory R61, R62) -/

theorem State.readByte_powerOn (c : Config) (a : Nat) : (State.powerOn c).readByte a = Memory.background c a := rfl

theorem State.readByte_powerOn_font (c : Config) {k : Nat} (hk : k < 80) :
    (State.powerOn c).readByte (c.fontBase.toNat + k) = c.fontData.getD k 0 := by
  rw [State.readByte_powerOn, Memory.background, if_pos (by omega), Nat.add_sub_cancel_left]
  rfl

theorem State.readByte_powerOn_of_not_font (c : Config) {a : Nat}
    (ha : a < c.fontBase.toNat ∨ c.fontBase.toNat + 80 ≤ a) : (State.powerOn c).readByte a = 0 := by
  rw [State.readByte_powerOn, Memory.background, if_neg (by omega)]
  rfl

/-- A legal font ends below the program area (00_scope R6). -/
theorem Config.font_le_of_wellFormed {c : Config} (hc : c.wellFormed = true) : c.fontBase.toNat + 80 ≤ 0x200 := by
  rw [Config.wellFormed, Bool.and_eq_true] at hc
  exact of_decide_eq_true hc.1

/-- With no image loaded the first fetch finds a zero word. -/
theorem State.fetchWord_powerOn {c : Config} (hc : c.wellFormed = true) : (State.powerOn c).fetchWord = 0#16 := by
  have hfont := Config.font_le_of_wellFormed hc
  have hhigh : (State.powerOn c).readByte 0x200 = 0 := State.readByte_powerOn_of_not_font c (.inr hfont)
  have hlow : (State.powerOn c).readByte 0x201 = 0 := State.readByte_powerOn_of_not_font c (.inr (by omega))
  calc (State.powerOn c).fetchWord
      = wordOfBytes ((State.powerOn c).readByte 0x200) ((State.powerOn c).readByte 0x201) := rfl
    _ = 0#16 := by rw [hhigh, hlow]; rfl

/-! ### The screen that power-on leaves (10_state R31, R40) -/

theorem getD_replicate_self {α : Type} (n k : Nat) (a : α) : (Vector.replicate n a).getD k a = a := by
  by_cases hk : k < n <;> simp [Vector.getD, hk]

/-- Outside the grid a cell reads as off too. -/
theorem cellAt_powerOn (c : Config) (u v : Nat) : cellAt (State.powerOn c).fb u v = false := by
  have hrow : (State.powerOn c).fb.getD v blankRow = blankRow := getD_replicate_self 32 v blankRow
  rw [cellAt, hrow]
  exact getD_replicate_self 64 u false

/-! ### Power-on reset (R320) -/

/-- Settles O49: QUIT is left by no operation but reset, and what reset leaves is the machine after power-on but for the
counter of draws, which the statement leaves open. -/
theorem powerOnState : Obligations.PowerOnState := by
  refine ⟨fun o s t hq h ht => ?_, fun c s t ht => ?_⟩
  · by_contra hreset
    have hsame := invoke_of_quit hq fun c hc => hreset ⟨c, hc⟩
    obtain rfl := Host.Outcome.next.inj (hsame.symm.trans h)
    exact ht hq
  · obtain ⟨d, rfl⟩ : ∃ d, t = { State.powerOn c with draws := d } := ht.elim (fun h => ⟨_, h⟩) fun h => ⟨_, h⟩
    refine ⟨fun r => Vector.getElem_replicate _, rfl, rfl, fun k => Vector.getElem_replicate _, rfl, rfl, rfl,
      fun k => State.readByte_powerOn_font c, fun a => State.readByte_powerOn_of_not_font c, cellAt_powerOn c,
      fun k => Vector.getElem_replicate _, rfl, rfl, rfl, rfl, rfl, rfl, rfl, rfl, rfl, rfl, rfl, rfl, rfl,
      fun hc => ?_⟩
    have hword := State.fetchWord_powerOn hc
    exact congrArg decode hword

/-! ### `load_program` (R321 to R323) -/

theorem loadProgram_of_tooLarge {bytes : List Byte} (h : 3584 < bytes.length) (s : State) :
    loadProgram bytes s = (.imageTooLarge, s) := by
  simpa [h, h.not_ge] using loadProgram_cases bytes s

theorem loadProgram_of_fits_quit {bytes : List Byte} {s : State} (h : bytes.length ≤ 3584) (hq : s.execState = .quit) :
    loadProgram bytes s = (.refusedInQuit, s) := by
  simpa [h, h.not_gt, hq] using loadProgram_cases bytes s

theorem loadProgram_of_fits {bytes : List Byte} {s : State} (h : bytes.length ≤ 3584) (hq : s.execState ≠ .quit) :
    loadProgram bytes s = (.success, s.loaded bytes) := by
  simpa [h, h.not_gt, hq] using loadProgram_cases bytes s

/-- Settles O51. -/
theorem loadProgramRefused : Obligations.LoadProgramRefused :=
  fun _ s => ⟨fun h => loadProgram_of_tooLarge h s, loadProgram_of_fits_quit⟩

theorem State.readByte_loaded_image (s : State) {bytes : List Byte} {k : Nat} (hk : k < bytes.length) :
    (s.loaded bytes).readByte (0x200 + k) = bytes.getD k 0 := by
  rw [State.readByte_loaded, if_pos (by omega), Nat.add_sub_cancel_left]
  rfl

theorem State.readByte_loaded_of_not_image (s : State) {bytes : List Byte} {a : Nat}
    (ha : a < 0x200 ∨ 0x200 + bytes.length ≤ a) : (s.loaded bytes).readByte a = (State.powerOn s.cfg).readByte a := by
  rw [State.readByte_loaded, if_neg (by omega)]

/-- A load resets all but the configuration, the memory and the counter of draws (10_state R40). -/
theorem State.loaded_eq_powerOn (s : State) (bytes : List Byte) : s.loaded bytes =
    { State.powerOn s.cfg with mem := (s.loaded bytes).mem, draws := (s.loaded bytes).draws } := rfl

/-- Settles O50: the font of a legal configuration lies below the image, so it stands as power-on leaves it. -/
theorem loadProgramSucceeds : Obligations.LoadProgramSucceeds := by
  intro bytes s hlen hq hc
  have hfont := Config.font_le_of_wellFormed hc
  refine ⟨_, loadProgram_of_fits hlen hq, fun k => s.readByte_loaded_image, fun k hk => ?_, fun a hout himage => ?_,
    s.loaded_eq_powerOn bytes⟩
  · rw [s.readByte_loaded_of_not_image (.inl (by omega)), State.readByte_powerOn_font s.cfg hk]
  · rw [s.readByte_loaded_of_not_image himage, State.readByte_powerOn_of_not_font s.cfg hout]

/-! ### A jump to itself (R332) -/

/-- The next step runs a jump to its own address. -/
def AtSelfJump (nnn : Addr) (s : State) : Prop :=
  CanStep s ∧ s.pc.toNat = nnn.toNat ∧ nnn.toNat ≤ 0xFFE ∧ decode s.fetchWord = .instr (.jp nnn)

/-- What a step at a jump to itself leaves. -/
def State.afterSelfJump (s : State) : State := { s with ir := s.fetchWord, status := .ok }

theorem AtSelfJump.step_eq {nnn : Addr} {s : State} (h : AtSelfJump nnn s) : step s = .next s.afterSelfJump := by
  obtain ⟨⟨hrun, hfault⟩, hpc, hin, hd⟩ := h
  have htarget : zextAddr nnn = s.pc := BitVec.eq_of_toNat_eq ((zextAddr_toNat nnn).trans hpc.symm)
  rw [step_eq_exec hrun hfault (s.fetchable_iff.2 (hpc ▸ hin)) hd, exec_jp_eq, htarget]
  rfl

theorem AtSelfJump.afterSelfJump {nnn : Addr} {s : State} (h : AtSelfJump nnn s) : AtSelfJump nnn s.afterSelfJump := h

theorem AtSelfJump.runSchedule_eq {nnn : Addr} {s : State} (h : AtSelfJump nnn s) (n : Nat) :
    runSchedule (List.replicate (n + 1) .step) s = .next s.afterSelfJump := by
  induction n generalizing s with
  | zero => rw [List.replicate_succ, runSchedule_step_cons h.step_eq]; rfl
  | succ n ih =>
    rw [List.replicate_succ, runSchedule_step_cons h.step_eq, ih h.afterSelfJump]
    rfl

/-- Settles O44, by induction on the number of steps: a jump to itself leaves a state at the same jump. -/
theorem jumpToSelfStays : Obligations.JumpToSelfStays :=
  fun _ _ n hrun hfault hpc hin hd => AtSelfJump.runSchedule_eq ⟨⟨hrun, hfault⟩, hpc, hin, hd⟩ n

end Sys2Proof.Machine
end

section
/-! PROOF. O52, O53: the machine with a fault recorded (60_exceptions R293, R294).

The idea: each operation beside step, reset and load is a function of the state that keeps the fault record and does the
same to the rest of the state without a fault. A step with a fault recorded keeps the record too, so what clears it is a
reset or a load. -/

namespace Sys2Proof.Machine

/-! ### Functions of the state beside the fault record (R293) -/

/-- The state with its fault no longer marked valid. -/
def State.withoutFault (s : State) : State := { s with faultValid := false }

/-- The fault record is as before (10_state R37). -/
def KeepsFaultRecord (s t : State) : Prop :=
  t.faultValid = s.faultValid ∧ t.faultCode = s.faultCode ∧ t.faultPc = s.faultPc ∧ t.faultInfo = s.faultInfo

/-- The function keeps the fault record, and acts on the rest of the state as it does with no fault recorded. -/
def IgnoresFault (f : State → State) : Prop :=
  ∀ s : State, KeepsFaultRecord s (f s) ∧ f s.withoutFault = (f s).withoutFault

theorem ignoresFault_id : IgnoresFault id := fun _ => ⟨⟨rfl, rfl, rfl, rfl⟩, rfl⟩

theorem ignoresFault_setExecState (q : ExecState) : IgnoresFault (·.setExecState q) :=
  fun _ => ⟨⟨rfl, rfl, rfl, rfl⟩, rfl⟩

/-- A choice between two such functions by `exec_state`. -/
theorem IgnoresFault.ite {f g : State → State} (hf : IgnoresFault f) (hg : IgnoresFault g) (q : ExecState) :
    IgnoresFault fun s => if s.execState = q then f s else g s := by
  intro s
  have hstate : s.withoutFault.execState = s.execState := rfl
  dsimp only
  rw [hstate]
  split
  · exact hf s
  · exact hg s

theorem IgnoresFault.unlessQuit {op : State → State} (h : IgnoresFault op) : IgnoresFault (·.unlessQuit op) := by
  simp only [State.unlessQuit_eq]
  exact ignoresFault_id.ite h .quit

theorem ignoresFault_requestPause : IgnoresFault requestPause := by
  rw [funext requestPause_eq]
  exact (ignoresFault_setExecState .paused).ite ignoresFault_id .running

theorem ignoresFault_requestResume : IgnoresFault requestResume := by
  rw [funext requestResume_eq]
  exact (ignoresFault_setExecState .running).ite ignoresFault_id .paused

/-- By the operation: four write other fields unless the machine has quit, the requests write `exec_state` at most. -/
theorem invoke_ignoresFault {o : HostOp} (hstep : o ≠ .step) (hreset : ∀ c, o ≠ .reset c)
    (hload : ∀ bytes, o ≠ .loadProgram bytes) : ∃ f, IgnoresFault f ∧ ∀ s, invoke o s = .next (f s) := by
  cases o with
  | step => exact absurd rfl hstep
  | reset c => exact absurd rfl (hreset c)
  | loadProgram bytes => exact absurd rfl (hload bytes)
  | requestPause => exact ⟨_, ignoresFault_requestPause, fun _ => rfl⟩
  | requestResume => exact ⟨_, ignoresFault_requestResume, fun _ => rfl⟩
  | requestQuit => exact ⟨_, ignoresFault_setExecState .quit, fun _ => rfl⟩
  | tickTimers | keyDown _ | keyUp _ | frameAck =>
    refine ⟨_, IgnoresFault.unlessQuit ?_, fun _ => rfl⟩
    exact fun _ => ⟨⟨rfl, rfl, rfl, rfl⟩, rfl⟩

/-! ### The machine after a fault (R293, R294) -/

/-- Settles O53: a step with a fault recorded is stopped by its gates, and the other operations ignore the record. -/
theorem afterFault : Obligations.AfterFault := by
  refine fun s hs => ⟨fun hrun => step_of_faulted hrun hs, fun o t hreset hload h => ?_⟩
  by_cases hstep : o = .step
  · subst hstep
    obtain ⟨-, -, -, hrecord, -⟩ := stepNeverChanges s t h
    obtain ⟨hvalid, hcode, hpc, hinfo⟩ := hrecord (.inl hs)
    exact ⟨hvalid.trans hs, hcode, hpc, hinfo, absurd rfl⟩
  · obtain ⟨f, hf, hinvoke⟩ := invoke_ignoresFault hstep hreset hload
    obtain rfl := Host.Outcome.next.inj ((hinvoke s).symm.trans h)
    obtain ⟨⟨hvalid, hcode, hpc, hinfo⟩, hsame⟩ := hf s
    exact ⟨hvalid.trans hs, hcode, hpc, hinfo, fun _ => (hinvoke s.withoutFault).trans (congrArg _ hsame)⟩

/-- A load that clears the fault has succeeded: a refused one changes nothing. -/
theorem loadProgram_clears {bytes : List Byte} {s : State} (hs : s.faultValid = true)
    (ht : (loadProgram bytes s).2.faultValid = false) :
    bytes.length ≤ 3584 ∧ s.execState ≠ .quit ∧ loadProgram bytes s = (.success, s.loaded bytes) := by
  rcases loadProgram_cases bytes s with ⟨-, he⟩ | ⟨-, -, he⟩ | hloaded
  · rw [he] at ht
    exact absurd (hs.symm.trans ht) nofun
  · rw [he] at ht
    exact absurd (hs.symm.trans ht) nofun
  · exact hloaded

/-- Settles O52, by the operation: one that is no reset and no load keeps the fault (O53). -/
theorem faultClearedOnlyByReset : Obligations.FaultClearedOnlyByReset := by
  refine ⟨fun c s => ⟨_, rfl, rfl⟩, fun bytes s hlen hq => ?_, fun o s t hs h ht => ?_⟩
  · exact ⟨_, by rw [invoke, loadProgram_of_fits hlen hq], rfl⟩
  · by_cases hreset : ∃ c, o = .reset c
    · obtain ⟨c, rfl⟩ := hreset
      obtain rfl := Host.Outcome.next.inj h
      exact .inl ⟨c, rfl, rfl⟩
    by_cases hload : ∃ bytes, o = .loadProgram bytes
    · obtain ⟨bytes, rfl⟩ := hload
      obtain rfl := Host.Outcome.next.inj h
      obtain ⟨hlen, hq, he⟩ := loadProgram_clears hs ht
      rw [he]
      exact .inr ⟨bytes, rfl, hlen, hq, s.loaded_eq_powerOn bytes, fun k => s.readByte_loaded_image,
        fun a => s.readByte_loaded_of_not_image⟩
    · obtain ⟨-, hkeeps⟩ := afterFault s hs
      obtain ⟨hvalid, -⟩ := hkeeps o t (fun c hc => hreset ⟨c, hc⟩) (fun b hb => hload ⟨b, hb⟩) h
      exact absurd (hvalid.symm.trans ht) nofun

end Sys2Proof.Machine
end
